-- ==== Sys2Proof/Word.lean ====
section
/-! DEFINITION. The word types of the block: every quantity is unsigned (00_scope R19). -/

namespace Sys2Proof

/-- A `u8` of the spec. -/
abbrev Byte := BitVec 8

/-- A `u16` of the spec. -/
abbrev U16 := BitVec 16

/-- A `u32` of the spec. -/
abbrev U32 := BitVec 32

end Sys2Proof
end

