-- ==== Sys2Proof/Machine/Bytes.lean ====
section
/-! DEFINITION. Slices and byte order (00_scope R20, 20_memory R74 and R75): every multi-byte quantity is little-endian. -/

namespace Sys2Proof.Machine

/-- `lo8(v) = v[7:0]` (00_scope R20). -/
def lo8 (v : U16) : Byte := v.extractLsb' 0 8

/-- `hi8(v) = v[15:8]` (00_scope R20). -/
def hi8 (v : U16) : Byte := v.extractLsb' 8 8

/-- `zext_16(lo) | (zext_16(hi) << 8)` (30_encoding R107, R108). -/
def u16Of (lo hi : Byte) : U16 := lo.setWidth 16 ||| (hi.setWidth 16 <<< 8)

/-- `u32le(v)`: four bytes, least significant first (20_memory R75). -/
def u32le (v : U32) : List Byte :=
  [v.extractLsb' 0 8, v.extractLsb' 8 8, v.extractLsb' 16 8, v.extractLsb' 24 8]

/-- `roundup(n, a)`: the least multiple of `a` that is at least `n`, for `a` at least 1 (00_scope R20). -/
def roundup (n a : Nat) : Nat := (n + a - 1) / a * a

end Sys2Proof.Machine
end

