-- ==== Sys2Proof/Syntax.lean ====
section
/-! DEFINITION. The commands of the block (30_encoding R113), one constructor per row of the opcode table. -/

namespace Sys2Proof

/-- The parser select SEL (30_encoding R115, 10_state R33): 0 selects `PP`, 1 selects `PL`. -/
inductive ParserSel
  | pp
  | pl
  deriving DecidableEq, Repr

/-- The registers of 46_control R281. -/
inductive Reg
  | cfgMaxPayload
  | cfgRbCap
  | cfgXferCap
  | cfgAlign
  | cfgOptions
  | cfgIdxW
  | cntSendReject
  | cntQueueDrop
  | status
  | rbCount
  deriving DecidableEq, Repr

/-- A command with its operands. A data phase is the list of its bytes, so `n` of the spec is its length. -/
inductive Instr
  /-- CRC_UPDATE (40_checksum R143). -/
  | crcUpdate (crc : U16) (b : Byte)
  /-- CRC16 (40_checksum R144). -/
  | crc16 (id : Byte) (data : List Byte)
  /-- RB_PUSH (41_ring_buffer R165). -/
  | rbPush (b : Byte)
  /-- RB_POP (41_ring_buffer R166). -/
  | rbPop
  /-- RB_IS_EMPTY (41_ring_buffer R167). -/
  | rbIsEmpty
  /-- PARSE_BYTE (42_frame_parser R195). -/
  | parseByte (sel : ParserSel) (b : Byte)
  /-- GET_FRAME (42_frame_parser R196). -/
  | getFrame (sel : ParserSel)
  /-- SEND_PUSH (43_frame_encoder R212). -/
  | sendPush (id : Byte) (payload : List Byte)
  /-- SEND_QUEUE (43_frame_encoder R213). -/
  | sendQueue (id : Byte) (payload : List Byte)
  /-- PULL_POLL (44_pull_bus_scheduler R239). -/
  | pullPoll
  /-- ROUTER_PASS (45_router R267). -/
  | routerPass
  /-- RD_REG (46_control R280). -/
  | rdReg (reg : Reg)
  deriving DecidableEq, Repr

end Sys2Proof
end

