-- ==== Sys2Proof/WellFormed.lean ====
section
/-! DEFINITION. Which terms of `Instr` are commands: a data phase has a length that H16 can carry (30_encoding R102). -/

namespace Sys2Proof

/-- The data phase of a command: `D` of 30_encoding R115. -/
def Instr.dataPhase : Instr → List Byte
  | .crcUpdate _ _ => []
  | .crc16 _ data => data
  | .rbPush _ => []
  | .rbPop => []
  | .rbIsEmpty => []
  | .parseByte _ _ => []
  | .getFrame _ => []
  | .sendPush _ payload => payload
  | .sendQueue _ payload => payload
  | .pullPoll => []
  | .routerPass => []
  | .rdReg _ => []

/-- The length of the data phase fits the 16 bits of H16 (30_encoding R101, R102). Every other operand has every value
of its type. -/
def Instr.wellFormed : Instr → Bool
  | .crcUpdate _ _ => true
  | .crc16 _ data => decide (data.length < 65536)
  | .rbPush _ => true
  | .rbPop => true
  | .rbIsEmpty => true
  | .parseByte _ _ => true
  | .getFrame _ => true
  | .sendPush _ payload => decide (payload.length < 65536)
  | .sendQueue _ payload => decide (payload.length < 65536)
  | .pullPoll => true
  | .routerPass => true
  | .rdReg _ => true

end Sys2Proof
end

