-- ==== Sys2Proof/Decode.lean ====
section
/-! DEFINITION. The command encodings (30_encoding R100 to R118): the decoder, total on any bytes and rejecting by name,
and the encoder. -/

namespace Sys2Proof

open Machine (lo8 hi8 u16Of)

/-- Why a command word spells no command (30_encoding R114). -/
inductive IllegalReason
  /-- OP is not in the table of R113. -/
  | unknownOpcode
  /-- B8 is reserved and not zero. -/
  | reservedB8
  /-- H16, or its bits 15:1 in PARSE_BYTE and GET_FRAME, is reserved and not zero. -/
  | reservedH16
  /-- The register number of RD_REG is not in 46_control R281. -/
  | unknownRegister
  deriving DecidableEq, Repr

/-- Why the bytes at hand give no command. -/
inductive DecodeReject
  /-- The command word or its data phase is not there in full yet (30_encoding R102). -/
  | truncated
  /-- The word spells no command (30_encoding R114). -/
  | illegal (why : IllegalReason)
  deriving DecidableEq, Repr

/-- The register numbers of 46_control R281. -/
def Reg.number : Reg → U16
  | .cfgMaxPayload => 0x0000
  | .cfgRbCap => 0x0001
  | .cfgXferCap => 0x0002
  | .cfgAlign => 0x0003
  | .cfgOptions => 0x0004
  | .cfgIdxW => 0x0005
  | .cntSendReject => 0x0010
  | .cntQueueDrop => 0x0011
  | .status => 0x0020
  | .rbCount => 0x0021

/-- The register a number names; every other number names none (46_control R281). -/
def Reg.ofNumber (n : U16) : Option Reg :=
  if n = 0x0000 then some .cfgMaxPayload
  else if n = 0x0001 then some .cfgRbCap
  else if n = 0x0002 then some .cfgXferCap
  else if n = 0x0003 then some .cfgAlign
  else if n = 0x0004 then some .cfgOptions
  else if n = 0x0005 then some .cfgIdxW
  else if n = 0x0010 then some .cntSendReject
  else if n = 0x0011 then some .cntQueueDrop
  else if n = 0x0020 then some .status
  else if n = 0x0021 then some .rbCount
  else none

/-- SEL as H16 bit 0, with bits 15:1 zero (30_encoding R115). -/
def ParserSel.number : ParserSel → U16
  | .pp => 0
  | .pl => 1

/-- The parser a SEL field selects; none where bits 15:1 are not all zero (30_encoding R114, R115). -/
def ParserSel.ofNumber (n : U16) : Option ParserSel :=
  if n = 0 then some .pp
  else if n = 1 then some .pl
  else none

/-- DLEN of a command word (30_encoding R102). -/
def dataPhaseLength (op : Byte) (h16 : U16) : Nat :=
  if op = 0x02 ∨ op = 0x30 ∨ op = 0x31 then h16.toNat else 0

/-- A word whose B8 and H16 are reserved (30_encoding R114). -/
def decodeBare (b8 : Byte) (h16 : U16) (i : Instr) : Except DecodeReject Instr :=
  if b8 ≠ 0 then .error (.illegal .reservedB8)
  else if h16 ≠ 0 then .error (.illegal .reservedH16)
  else .ok i

/-- The command of a word with fields OP, B8 and H16 and the data phase `data` (30_encoding R113, R114). -/
def decodeFields (op b8 : Byte) (h16 : U16) (data : List Byte) : Except DecodeReject Instr :=
  if op = 0x01 then .ok (.crcUpdate h16 b8)
  else if op = 0x02 then .ok (.crc16 b8 data)
  else if op = 0x10 then
    if h16 ≠ 0 then .error (.illegal .reservedH16) else .ok (.rbPush b8)
  else if op = 0x11 then decodeBare b8 h16 .rbPop
  else if op = 0x12 then decodeBare b8 h16 .rbIsEmpty
  else if op = 0x20 then
    match ParserSel.ofNumber h16 with
    | some sel => .ok (.parseByte sel b8)
    | none => .error (.illegal .reservedH16)
  else if op = 0x21 then
    if b8 ≠ 0 then .error (.illegal .reservedB8)
    else match ParserSel.ofNumber h16 with
      | some sel => .ok (.getFrame sel)
      | none => .error (.illegal .reservedH16)
  else if op = 0x30 then .ok (.sendPush b8 data)
  else if op = 0x31 then .ok (.sendQueue b8 data)
  else if op = 0x40 then decodeBare b8 h16 .pullPoll
  else if op = 0x50 then decodeBare b8 h16 .routerPass
  else if op = 0x60 then
    if b8 ≠ 0 then .error (.illegal .reservedB8)
    else match Reg.ofNumber h16 with
      | some reg => .ok (.rdReg reg)
      | none => .error (.illegal .unknownRegister)
  else .error (.illegal .unknownOpcode)

/-- The first command of a byte sequence, and the bytes after it: four bytes of command word, least significant first
(30_encoding R101), then DLEN bytes of data phase (R102). -/
def decode : List Byte → Except DecodeReject (Instr × List Byte)
  | op :: b8 :: h0 :: h1 :: rest =>
    let h16 := u16Of h0 h1
    let n := dataPhaseLength op h16
    if rest.length < n then .error .truncated
    else match decodeFields op b8 h16 (rest.take n) with
      | .ok i => .ok (i, rest.drop n)
      | .error e => .error e
  | _ => .error .truncated

/-- OP of a command (30_encoding R113). -/
def Instr.opcode : Instr → Byte
  | .crcUpdate _ _ => 0x01
  | .crc16 _ _ => 0x02
  | .rbPush _ => 0x10
  | .rbPop => 0x11
  | .rbIsEmpty => 0x12
  | .parseByte _ _ => 0x20
  | .getFrame _ => 0x21
  | .sendPush _ _ => 0x30
  | .sendQueue _ _ => 0x31
  | .pullPoll => 0x40
  | .routerPass => 0x50
  | .rdReg _ => 0x60

/-- B8 of a command (30_encoding R113). -/
def Instr.fieldB8 : Instr → Byte
  | .crcUpdate _ b => b
  | .crc16 id _ => id
  | .rbPush b => b
  | .rbPop => 0
  | .rbIsEmpty => 0
  | .parseByte _ b => b
  | .getFrame _ => 0
  | .sendPush id _ => id
  | .sendQueue id _ => id
  | .pullPoll => 0
  | .routerPass => 0
  | .rdReg _ => 0

/-- H16 of a command (30_encoding R113). -/
def Instr.fieldH16 : Instr → U16
  | .crcUpdate crc _ => crc
  | .crc16 _ data => BitVec.ofNat 16 data.length
  | .rbPush _ => 0
  | .rbPop => 0
  | .rbIsEmpty => 0
  | .parseByte sel _ => sel.number
  | .getFrame sel => sel.number
  | .sendPush _ payload => BitVec.ofNat 16 payload.length
  | .sendQueue _ payload => BitVec.ofNat 16 payload.length
  | .pullPoll => 0
  | .routerPass => 0
  | .rdReg reg => reg.number

/-- The bytes of a command: its word, then its data phase (30_encoding R101, R102). -/
def encode (i : Instr) : List Byte :=
  [i.opcode, i.fieldB8, lo8 i.fieldH16, hi8 i.fieldH16] ++ i.dataPhase

/-- Byte `k` of an instruction whose bits are `w`, the bits from `nbits` up being zero. -/
def tableByte (nbits w k : Nat) : Byte := BitVec.ofNat 8 (w % 2 ^ nbits / 2 ^ (8 * k))

/-- The bytes of the instruction whose bits are `w`: its command word and as many bytes of data phase as the word asks
for, every bit from `nbits` up being zero. -/
def tableBytes (nbits w : Nat) : List Byte :=
  let b := tableByte nbits w
  let n := dataPhaseLength (b 0) (u16Of (b 2) (b 3))
  [b 0, b 1, b 2, b 3] ++ (List.range n).map (fun k => b (k + 4))

/-- The instruction the decoder reads from an instruction whose bits are `w`, numbered as the opcode table numbers
them. -/
def decodeTableWord (nbits w : Nat) : Option Instr :=
  match decode (tableBytes nbits w) with
  | .ok (i, _) => some i
  | .error _ => none

end Sys2Proof
end

