-- ==== Sys2Proof/Config.lean ====
section
/-! DEFINITION. What an implementation fixes: the parameters of 00_scope R7 to R17 as plain data, and the values
that the spec leaves open, as constants without a body. -/

namespace Sys2Proof

/-- `CRC_PROFILE` (00_scope R12). -/
inductive CrcProfile
  | asWritten
  | x25Named
  deriving DecidableEq, Repr

/-- `SEEK2_ON_A5` (00_scope R13). -/
inductive Seek2OnA5
  | restart
  | hold
  deriving DecidableEq, Repr

/-- `QUEUE_ON_FULL` (00_scope R14): `stop` is `STOP`, `goOn` is `CONTINUE`. -/
inductive QueueOnFull
  | stop
  | goOn
  deriving DecidableEq, Repr

/-- What `decodeChange` yields (00_scope R17): `scale` is a pattern of 32 bits, never computed with (45_router R268). -/
structure Change where
  tareRequested : Bool
  scale : U32
  deriving DecidableEq, Repr

/-- The open function `decodeChange` of 00_scope R17: nothing is known of it but that its result depends on the
payload alone (notes/assumptions/3). -/
opaque Config.decodeChange : List Byte → Option Change

/-- What a 32-bit register or count field shows of a quantity of 2^32 or more, which the spec does not say
(notes/assumptions/15). -/
opaque Config.wideCount : Nat → U32

/-- What RH16 of SEND_QUEUE shows of a byte count of 2^16 or more, which the spec does not say
(notes/assumptions/14). -/
opaque Config.wideSendCount : Nat → U16

/-- Which function stands for `decodeChange`, as plain data. `unspecified` is the open function itself; `table` is a
given function of finite support (any function on the finitely many payloads is one), refusing what it does not list;
`testTD` is the test function TD of 95_test_vectors.md. -/
inductive ChangeDecoder
  | unspecified
  | table (rows : List (List Byte × Change))
  | testTD
  deriving DecidableEq, Repr

/-- The parameters of one block (00_scope R7 to R17). -/
structure Params where
  /-- `MAX_PAYLOAD` (R7). -/
  maxPayload : Nat
  /-- `RB_CAP` (R8). -/
  rbCap : Nat
  /-- `IDX_W` (R9). -/
  idxW : Nat
  /-- `ALIGN` (R10). -/
  align : Nat
  /-- `XFER_CAP` (R11). -/
  xferCap : Nat
  /-- `CRC_PROFILE` (R12). -/
  crcProfile : CrcProfile
  /-- `SEEK2_ON_A5` (R13). -/
  seek2OnA5 : Seek2OnA5
  /-- `QUEUE_ON_FULL` (R14). -/
  queueOnFull : QueueOnFull
  /-- `CHANGE_ID` (R16). -/
  changeId : Byte
  /-- `decodeChange` (R17). -/
  changeDecoder : ChangeDecoder
  deriving DecidableEq, Repr

/-- The test configuration of 95_test_vectors.md, with `decodeChange` left open. DESIGN CHOICE
(notes/assumptions/2): the hardware's numbers are not in the spec; no statement rests on these. -/
def Params.vectors : Params where
  maxPayload := 16
  rbCap := 16
  idxW := 16
  align := 4
  xferCap := 16
  crcProfile := .asWritten
  seek2OnA5 := .restart
  queueOnFull := .stop
  changeId := 0x11
  changeDecoder := .unspecified

end Sys2Proof
end

