-- ==== Sys2Proof/Machine/Parameters.lean ====
section
/-! DEFINITION. The fixed constants (00_scope R15), the constraints on the parameters (70_reset R333), and
`decodeChange` (00_scope R17). -/

namespace Sys2Proof.Machine

/-- `STX1` (00_scope R15). -/
abbrev stx1 : Byte := 0xA5

/-- `STX2` (00_scope R15). -/
abbrev stx2 : Byte := 0x5A

/-- `FILLER` (00_scope R15). -/
abbrev filler : Byte := 0xFF

/-- `RB_CAP` is a power of two with `RB_CAP <= 2^(IDX_W-1)` and `IDX_W >= 1` (00_scope R8, R9): it is `2^k` for some
`k < IDX_W`. -/
def rbCapValid (cfg : Params) : Bool := (List.range cfg.idxW).any fun k => cfg.rbCap == 2 ^ k

/-- The constraints under which a block exists (70_reset R333 point 1). -/
def paramsValid (cfg : Params) : Bool :=
  decide (1 ≤ cfg.maxPayload) && decide (cfg.maxPayload ≤ 65534) && rbCapValid cfg && decide (1 ≤ cfg.align)
    && decide (1 ≤ cfg.xferCap) && decide (cfg.xferCap % cfg.align = 0) && decide (cfg.xferCap ≤ 65535)

/-- The test function TD of 95_test_vectors.md. -/
def decodeChangeTD : List Byte → Option Change
  | [t, s0, s1, s2, s3] =>
    if t = 0 ∨ t = 1 then
      some { tareRequested := t == 1, scale := s3 ++ s2 ++ s1 ++ s0 }
    else none
  | _ => none

/-- `decodeChange` (00_scope R17): a function of the payload bytes alone. -/
def decodeChange (cfg : Params) (payload : List Byte) : Option Change :=
  match cfg.changeDecoder with
  | .unspecified => Config.decodeChange payload
  | .table rows => rows.lookup payload
  | .testTD => decodeChangeTD payload

end Sys2Proof.Machine
end

