-- ==== Sys2Proof/Machine/State.lean ====
section
/-! DEFINITION. The state of the block (10_state R30 to R56) and of the agents it calls (60_exceptions R313, R314), as
plain data; the faults and refusals of the model; the state right after reset. -/

namespace Sys2Proof.Machine

/-- Where the model itself stops. (The block's own faults, 60_exceptions R306, are next states.) -/
inductive Fault
  /-- Raised by `memRead`, `memWrite` and their range forms: a rule computed an index outside its array, which 20_memory
  R71 calls a bug of the transcription that "should fault". Safe: no state that meets the invariant reaches it. -/
  | indexOutOfRange (index : Nat)
  deriving DecidableEq, Repr

/-- Why a command gets no meaning. -/
inductive Refusal
  /-- Raised by `exec` for an instruction that has no meaning yet. Safe. No arm raises it. -/
  | notModelled (mnemonic : String)
  /-- Raised by `guarded` and `step`: the parameters break a constraint, and then "the block does not exist"
  (00_scope R8, 70_reset R333). Safe. -/
  | noBlock
  deriving DecidableEq, Repr

/-- An internal byte array (20_memory R70): the bytes that are not zero, by rising index (notes/assumptions/5). -/
abbrev Memory := List Host.Cell

/-- What a byte that no cell lists reads as. DESIGN CHOICE (notes/assumptions/5): the spec lets it be any value. -/
def Memory.unlisted : Byte := 0

/-- The one canonical form: indexes strictly rising, and no cell that says what an unlisted index reads as. -/
abbrev Memory.wf (m : Memory) : Prop :=
  m.Pairwise (fun a b => a.1 < b.1) ∧ ∀ c ∈ m, c.2 ≠ Memory.unlisted

/-- The parser states of 10_state R34, each named after the byte it awaits. -/
inductive ParserState
  | seek1
  | seek2
  | lenLo
  | lenHi
  | id
  | payload
  | crcLo
  | crcHi
  deriving DecidableEq, Repr

/-- One FrameParser instance (10_state R34 to R40). -/
structure Parser where
  /-- `P.ps` (R34). -/
  ps : ParserState
  /-- `P.len`: the wire LEN of the frame in progress (R35). -/
  len : U16
  /-- `P.id` (R36). -/
  id : Byte
  /-- `P.idx`: payload bytes received (R37). -/
  idx : U16
  /-- `P.acc`: MAX_PAYLOAD bytes (R38). -/
  acc : Memory
  /-- `P.crclo` (R39). -/
  crclo : Byte
  /-- `P.frm_valid` (R40). -/
  frmValid : Bool
  /-- `P.frm_id` (R40). -/
  frmId : Byte
  /-- `P.frm_len`: the published payload length (R40). -/
  frmLen : U16
  /-- `P.frm_payload`: MAX_PAYLOAD bytes (R40). -/
  frmPayload : Memory
  deriving DecidableEq, Repr

/-- A parser after reset (10_state R55); the elements R55 leaves unspecified are 0, DESIGN CHOICE
(notes/assumptions/4). -/
def Parser.reset : Parser where
  ps := .seek1
  len := 0
  id := 0
  idx := 0
  acc := []
  crclo := 0
  frmValid := false
  frmId := 0
  frmLen := 0
  frmPayload := []

/-- The ring buffer (10_state R41 to R43). The indexes are IDX_W bits wide, a parameter, so they are numbers that every
rule reduces modulo 2^IDX_W (notes/assumptions/16). -/
structure RingBuffer where
  /-- `rb.mem`: RB_CAP bytes (R41). -/
  mem : Memory
  /-- `rb.head` (R42). -/
  head : Nat
  /-- `rb.tail` (R43). -/
  tail : Nat
  deriving DecidableEq, Repr

/-- The ring buffer after reset (10_state R55); its bytes are unspecified there (notes/assumptions/4). -/
def RingBuffer.reset : RingBuffer where
  mem := []
  head := 0
  tail := 0

/-- A published frame `(id, n, payload)` as a pass captures it (44_pull_bus_scheduler R232). -/
structure Frame where
  id : Byte
  len : U16
  payload : List Byte
  deriving DecidableEq, Repr

/-- One event of a routing pass (30_encoding R112). -/
inductive RouterEvent
  | dispatchPull (f : Frame)
  | dispatchPush (f : Frame)
  | change (id : Byte) (ch : Change)
  deriving DecidableEq, Repr

/-- The transport calls that are made once in a command (60_exceptions R313, R314). -/
inductive TransportCall
  | pushWrite
  | pushFlush
  | pushAvailable
  | pullPoll
  | pullQueue
  deriving DecidableEq, Repr

/-- The push-bus transport at its boundary (60_exceptions R313, R315; notes/assumptions/7). A call that does not return
is notes/assumptions/13. -/
structure PushTransport where
  /-- Received bytes not yet read, oldest first. -/
  rxq : List Byte
  /-- What `PushAvailable` answers where it is not the number of received bytes (R315, 45_router R265). -/
  availReport : Option Nat
  /-- Bytes written and not yet sent, in order. -/
  txPending : List Byte
  /-- Bytes sent, in order. -/
  txSent : List Byte
  /-- Whether a `PushWrite` called now returns (R304, R315). -/
  writeReturns : Bool
  /-- Whether a `PushFlush` called now returns (R304, R315). -/
  flushReturns : Bool
  /-- Whether a `PushAvailable` called now returns (R304, R315). -/
  availableReturns : Bool
  /-- How many more bytes `PushReadByte` gives before a call of it that does not return; `none` where every call
  returns (R304, R315). -/
  readsLeft : Option Nat
  deriving DecidableEq, Repr

/-- The pull-bus transport at its boundary (60_exceptions R314, R315; notes/assumptions/7). -/
structure PullTransport where
  /-- `c`: transactions completed since the last `PullPoll`. -/
  completed : Nat
  /-- `r`: bytes received in the last completed transaction. -/
  rxCount : Nat
  /-- `f`: transactions in flight. -/
  inFlight : Nat
  /-- The transmit bytes of every transaction queued, in order. -/
  queued : List (List Byte)
  /-- The bytes the remote master has clocked out of them, in order. -/
  sent : List Byte
  /-- Whether a `PullPoll` called now returns (R304, R315; notes/assumptions/13). -/
  pollReturns : Bool
  /-- Whether a `PullQueue` called now returns (R304, R315; notes/assumptions/13). -/
  queueReturns : Bool
  deriving DecidableEq, Repr

/-- A host context (00_scope R18): P produces into the ring buffer, C consumes from it. -/
inductive Context
  | p
  | c
  deriving DecidableEq, Repr

/-- The status codes of 30_encoding R105. -/
inductive Status
  | ok
  | no
  | dropped
  | fault
  | illegal
  deriving DecidableEq, Repr

/-- A response: STATUS, RB8, RH16 and the data phase (30_encoding R104). -/
structure Response where
  status : Status
  b8 : Byte
  h16 : U16
  data : List Byte
  deriving DecidableEq, Repr

/-- Which command runs a scheduling pass (44_pull_bus_scheduler R230). -/
inductive Pass
  | poll
  | router
  deriving DecidableEq, Repr

/-- A context's command between two of its atomic steps (20_memory R76; notes/assumptions/9), or inside a transport call
that has not returned (60_exceptions R315; notes/assumptions/13). -/
inductive Progress
  /-- No command is in progress. -/
  | idle
  /-- SEND_QUEUE with the bytes it has yet to push and the number it has pushed (43_frame_encoder R213). -/
  | sending (rest : List Byte) (k : Nat)
  /-- A scheduling pass with the frames it drained, filling the transmit buffer, `m` bytes in it
  (44_pull_bus_scheduler R234). -/
  | filling (pass : Pass) (frames : List Frame) (m : Nat)
  /-- SEND_PUSH inside a `PushWrite` of this frame. -/
  | writing (frame : List Byte)
  /-- SEND_PUSH inside a `PushFlush`. -/
  | flushing
  /-- A scheduling pass inside its `PullPoll`. -/
  | polling (pass : Pass)
  /-- A scheduling pass with the frames it drained, inside its `PullQueue` of `tx[0 .. tx_len)`. -/
  | queueing (pass : Pass) (frames : List Frame)
  /-- ROUTER_PASS inside its `PushAvailable`, with its events so far. -/
  | counting (armed : Bool) (events : List RouterEvent)
  /-- ROUTER_PASS inside a `PushReadByte`, that and `k - 1` more to be called at most, with the number of bytes read and
  its events so far. -/
  | reading (k used : Nat) (armed : Bool) (events : List RouterEvent)
  deriving DecidableEq, Repr

/-- The interface of one host context (notes/assumptions/11). -/
structure Port where
  /-- Command bytes issued and not yet taken (30_encoding R101, R102). -/
  stream : List Byte
  /-- The command in progress. -/
  progress : Progress
  /-- The responses given, oldest first (30_encoding R104). -/
  responses : List Response
  deriving DecidableEq, Repr

/-- A port that nothing has used yet. -/
def Port.empty : Port where
  stream := []
  progress := .idle
  responses := []

/-- What the outside of the block does next (notes/assumptions/8). -/
inductive Input
  /-- A context takes its next atomic step (20_memory R76). -/
  | turn (x : Context)
  /-- A context issues command bytes (30_encoding R101). -/
  | issue (x : Context) (bytes : List Byte)
  /-- The reset input (70_reset R330). -/
  | reset
  /-- The push bus receives bytes. -/
  | pushArrive (bytes : List Byte)
  /-- What `PushAvailable` answers from now on: its true count for `none`. -/
  | pushReport (n : Option Nat)
  /-- Whether this transport call returns from now on. -/
  | callReturns (call : TransportCall) (returns : Bool)
  /-- How many more bytes `PushReadByte` gives before a call of it that does not return. -/
  | pushReadsLeft (n : Option Nat)
  /-- The remote master ends a transfer in which it clocked these bytes in (60_exceptions R314, R319). -/
  | masterClock (bytes : List Byte)
  /-- The pull transport's report becomes `(c, r, f)`, with `bytes` written at the start of `rx`; it need not keep the
  duties of 60_exceptions R315. -/
  | pullReport (c r f : Nat) (bytes : List Byte)
  deriving DecidableEq, Repr

/-- The machine: the block's elements (10_state R33 to R52) and what stands around it. -/
structure State where
  /-- The parameters, fixed for the life of the block: no rule writes them (notes/assumptions/1). -/
  cfg : Params
  /-- `PP` (10_state R33). -/
  pp : Parser
  /-- `PL` (10_state R33). -/
  pl : Parser
  /-- `rb` (10_state R41 to R43). -/
  rb : RingBuffer
  /-- `tip` (10_state R45). -/
  tip : Bool
  /-- `tx`: XFER_CAP bytes (10_state R46). -/
  tx : Memory
  /-- `tx_len` (10_state R47). -/
  txLen : U16
  /-- `rx`: XFER_CAP bytes (10_state R48). -/
  rx : Memory
  /-- `cnt_send_reject` (10_state R49). -/
  cntSendReject : U32
  /-- `cnt_queue_drop` (10_state R50). -/
  cntQueueDrop : U32
  /-- `fault` (10_state R51). -/
  fault : Bool
  /-- `fault_reason` (10_state R52). -/
  faultReason : Byte
  /-- The push-bus transport. -/
  push : PushTransport
  /-- The pull-bus transport. -/
  pull : PullTransport
  /-- Whether two host contexts exist (00_scope R18). -/
  twoContexts : Bool
  /-- The context that takes the next atomic step, where there are two. -/
  turn : Context
  /-- The interface of context P. -/
  portP : Port
  /-- The interface of context C, and of the one context where there is one (notes/assumptions/10). -/
  portC : Port
  /-- A reset input that is not taken yet (notes/assumptions/12). -/
  resetPending : Bool
  /-- What the outside does next, in order (notes/assumptions/8). -/
  inputs : List Input
  deriving DecidableEq, Repr

/-- The block with the parameters `cfg` right after reset (10_state R55), both transports idle (70_reset R333), no
command issued. -/
def State.initial (cfg : Params) : State where
  cfg := cfg
  pp := .reset
  pl := .reset
  rb := .reset
  tip := false
  tx := []
  txLen := 0
  rx := []
  cntSendReject := 0
  cntQueueDrop := 0
  fault := false
  faultReason := 0
  push := { rxq := [], availReport := none, txPending := [], txSent := [], writeReturns := true, flushReturns := true,
            availableReturns := true, readsLeft := none }
  pull := { completed := 0, rxCount := 0, inFlight := 0, queued := [], sent := [], pollReturns := true,
            queueReturns := true }
  twoContexts := false
  turn := .c
  portP := .empty
  portC := .empty
  resetPending := false
  inputs := []

/-- The machine right after reset, with the numbers of the spec's test configuration (notes/assumptions/2). -/
def State.reset : State := .initial .vectors

end Sys2Proof.Machine
end

