-- ==== Sys2Proof/Machine/Flags.lean ====
section
/-! DEFINITION. Codes and flag words: status codes (30_encoding R105), parser state codes (10_state R34), fault reason
codes (60_exceptions R307), and the fields of CFG_OPTIONS and STATUS (46_control R283, R284). The block has no
condition-code register (10_state R53): a boolean result is a response status. -/

namespace Sys2Proof.Machine

/-- The status codes of 30_encoding R105. -/
def Status.code : Status → Byte
  | .ok => 0x00
  | .no => 0x01
  | .dropped => 0x02
  | .fault => 0xFE
  | .illegal => 0xFF

/-- A boolean result as a status: OK for true, NO for false (30_encoding R105, 10_state R53). -/
def Status.ofBool : Bool → Status
  | true => .ok
  | false => .no

/-- The parser state codes of 10_state R34. -/
def ParserState.code : ParserState → BitVec 3
  | .seek1 => 0
  | .seek2 => 1
  | .lenLo => 2
  | .lenHi => 3
  | .id => 4
  | .payload => 5
  | .crcLo => 6
  | .crcHi => 7

/-- The causes of a fault of the block (60_exceptions R307). -/
inductive FaultReason
  | completionWithoutArm
  | multipleCompletions
  | rxOverrun
  | lostTransaction
  | inFlightWithoutArm
  | inFlightOverflow
  | contextConflict
  deriving DecidableEq, Repr

/-- The fault reason codes of 60_exceptions R307. -/
def FaultReason.code : FaultReason → Byte
  | .completionWithoutArm => 1
  | .multipleCompletions => 2
  | .rxOverrun => 3
  | .lostTransaction => 4
  | .inFlightWithoutArm => 5
  | .inFlightOverflow => 6
  | .contextConflict => 7

/-- A one-bit field. -/
def bit (b : Bool) : BitVec 1 := BitVec.ofBool b

/-- CFG_OPTIONS: bit 0 CRC_PROFILE, bit 1 SEEK2_ON_A5, bit 2 QUEUE_ON_FULL, bits 15:8 CHANGE_ID, the rest 0
(46_control R283). -/
def optionsWord (cfg : Params) : U32 :=
  (0 : BitVec 16) ++ cfg.changeId ++ (0 : BitVec 5) ++ bit (cfg.queueOnFull == .goOn)
    ++ bit (cfg.seek2OnA5 == .hold) ++ bit (cfg.crcProfile == .x25Named)

/-- STATUS: bit 0 TIP, bit 1 FAULT, bits 4:2 PP_PS, bits 7:5 PL_PS, bit 8 PP_FRM_VALID, bit 9 PL_FRM_VALID, bits 23:16
FAULT_REASON, the rest 0 (46_control R284). -/
def statusWord (s : State) : U32 :=
  (0 : BitVec 8) ++ s.faultReason ++ (0 : BitVec 6) ++ bit s.pl.frmValid ++ bit s.pp.frmValid
    ++ s.pl.ps.code ++ s.pp.ps.code ++ bit s.fault ++ bit s.tip

/-- A quantity in a 32-bit register or count field (46_control R282, R285; 30_encoding R120). The spec does not say
what stands there for a quantity of 2^32 or more, so that is left open (notes/assumptions/15). -/
def image32 (n : Nat) : U32 := if n < 2 ^ 32 then BitVec.ofNat 32 n else Config.wideCount n

/-- The byte count of SEND_QUEUE in RH16 (43_frame_encoder R213). The spec does not say what stands there for a count
of 2^16 or more, so that is left open (notes/assumptions/14). -/
def sendCount16 (k : Nat) : U16 := if k < 2 ^ 16 then BitVec.ofNat 16 k else Config.wideSendCount k

end Sys2Proof.Machine
end

