-- ==== Sys2Proof/Machine/Ops.lean ====
section
/-! DEFINITION. The operations every command shares: the byte arrays (20_memory R71), the ports, the response
(30_encoding R104), raising a fault (60_exceptions R306), the checks that come before a command (60_exceptions R308),
and the transport primitives (60_exceptions R313, R314). -/

namespace Sys2Proof.Machine

/-! ### Byte arrays -/

/-- Byte `i` of an array. -/
def Memory.read : Memory → Nat → Byte
  | [], _ => Memory.unlisted
  | (j, w) :: t, i => if j = i then w else Memory.read t i

/-- The array with byte `i` set to `v`, in the canonical form. -/
def Memory.write : Memory → Nat → Byte → Memory
  | [], i, v => if v = Memory.unlisted then [] else [(i, v)]
  | (j, w) :: t, i, v =>
    if j < i then (j, w) :: Memory.write t i v
    else if j = i then (if v = Memory.unlisted then t else (i, v) :: t)
    else if v = Memory.unlisted then (j, w) :: t
    else (i, v) :: (j, w) :: t

/-- Bytes `0` to `n - 1` of an array, in order. -/
def Memory.readPrefix (m : Memory) (n : Nat) : List Byte := (List.range n).map (Memory.read m)

/-- The array with `bytes` written at indexes `i`, `i + 1`, … in order. -/
def Memory.writeBytes : Memory → Nat → List Byte → Memory
  | m, _, [] => m
  | m, i, b :: t => Memory.writeBytes (Memory.write m i b) (i + 1) t

/-- `MemRead(M, i, 1)` of an array of `size` bytes (20_memory R71). -/
def memRead (size : Nat) (m : Memory) (i : Nat) : Except Fault Byte :=
  if i < size then .ok (Memory.read m i) else .error (.indexOutOfRange i)

/-- `MemWrite(M, i, 1, v)` of an array of `size` bytes (20_memory R71). -/
def memWrite (size : Nat) (m : Memory) (i : Nat) (v : Byte) : Except Fault Memory :=
  if i < size then .ok (Memory.write m i v) else .error (.indexOutOfRange i)

/-- `M[0 .. n)` of an array of `size` bytes: MemRead at each index. -/
def memReadPrefix (size : Nat) (m : Memory) (n : Nat) : Except Fault (List Byte) :=
  if n ≤ size then .ok (Memory.readPrefix m n) else .error (.indexOutOfRange size)

/-- `M[i .. i + |bytes|) <- bytes` in an array of `size` bytes: MemWrite at each index. -/
def memWriteBytes (size : Nat) (m : Memory) (i : Nat) (bytes : List Byte) : Except Fault Memory :=
  if i + bytes.length ≤ size then .ok (Memory.writeBytes m i bytes) else .error (.indexOutOfRange size)

/-! ### Ports, responses, faults -/

/-- The context whose port the next atomic step uses: with one context, C's (notes/assumptions/10). -/
def State.issuer (s : State) : Context := if s.twoContexts then s.turn else .c

/-- The port of a context. -/
def State.portOf (s : State) : Context → Port
  | .p => s.portP
  | .c => s.portC

/-- The state with the port of a context replaced. -/
def State.withPort (s : State) (x : Context) (q : Port) : State :=
  { s with
    portP := match x with
      | .p => q
      | .c => s.portP
    portC := match x with
      | .p => s.portC
      | .c => q }

/-- The port of the context that takes the step. -/
def State.port (s : State) : Port := s.portOf s.issuer

/-- The state with that port replaced. -/
def State.setPort (s : State) (q : Port) : State := s.withPort s.issuer q

/-- The command of the context that takes the step stands between two atomic steps (20_memory R76). -/
def State.setProgress (s : State) (g : Progress) : State := s.setPort { s.port with progress := g }

/-- `respond(status, b8, h16, data)`: the command's one response, and its end (30_encoding R104, 70_reset R348). -/
def State.respond (s : State) (st : Status) (b8 : Byte) (h16 : U16) (data : List Byte) : State :=
  s.setPort { s.port with
    progress := .idle
    responses := s.port.responses ++ [{ status := st, b8 := b8, h16 := h16, data := data }] }

/-- `raise Fault(reason)`: the flag is set, the first reason since reset is kept, the response is FAULT
(60_exceptions R306). It is the block's whole exception mechanism: no state is saved, nothing is entered and nothing
returns (60_exceptions R310). -/
def State.raise (s : State) (r : FaultReason) : State :=
  { s with fault := true, faultReason := if s.fault then s.faultReason else r.code }.respond .fault 0 0 []

/-- The response to a word that spells no command (30_encoding R114). -/
def State.answerIllegal (s : State) : State := s.respond .illegal 0 0 []

/-- The commands a context may issue where there are two (20_memory R77). -/
def Context.mayIssue : Context → Instr → Bool
  | .p, .rbPush _ => true
  | .p, .sendQueue _ _ => true
  | .p, .crcUpdate _ _ => true
  | .p, .crc16 _ _ => true
  | .p, .rdReg _ => true
  | .p, .rbPop => false
  | .p, .rbIsEmpty => false
  | .p, .parseByte _ _ => false
  | .p, .getFrame _ => false
  | .p, .sendPush _ _ => false
  | .p, .pullPoll => false
  | .p, .routerPass => false
  | .c, .rbPush _ => false
  | .c, .sendQueue _ _ => false
  | .c, .crcUpdate _ _ => true
  | .c, .crc16 _ _ => true
  | .c, .rdReg _ => true
  | .c, .rbPop => true
  | .c, .rbIsEmpty => true
  | .c, .parseByte _ _ => true
  | .c, .getFrame _ => true
  | .c, .sendPush _ _ => true
  | .c, .pullPoll => true
  | .c, .routerPass => true

/-- Whether the context that takes the step may issue this command: with one context, always (20_memory R77). -/
def State.admits (s : State) (i : Instr) : Bool := !s.twoContexts || s.turn.mayIssue i

/-- A computation of the model as an outcome of the machine. -/
def outcome (r : Except Fault State) : Host.Outcome State Fault Refusal :=
  match r with
  | .ok s => .next s
  | .error f => .fault f

/-- What comes before a command's own rule: the block exists (70_reset R333), and the context may issue the command
(60_exceptions R308 check 2). -/
def guarded (i : Instr) (s : State) (body : Except Fault State) : Host.Outcome State Fault Refusal :=
  if paramsValid s.cfg = false then .refused .noBlock
  else if s.admits i = false then .next (s.raise .contextConflict)
  else outcome body

/-! ### Transport primitives -/

/-- `PushAvailable()` (60_exceptions R313): the number of received bytes, unless the transport answers otherwise
(R315). -/
def PushTransport.available (p : PushTransport) : Nat := p.availReport.getD p.rxq.length

/-- What a call of `PushReadByte()` comes to (60_exceptions R313, R315). -/
inductive ReadResult
  /-- The call does not return. -/
  | hangs
  /-- No received byte is left. -/
  | empty
  /-- The oldest received byte, which the transport no longer holds. -/
  | byte (b : Byte) (p : PushTransport)
  deriving DecidableEq, Repr

/-- `PushReadByte()` (60_exceptions R313): removes and returns the oldest received byte, if the call returns. -/
def PushTransport.readByte (p : PushTransport) : ReadResult :=
  if p.readsLeft = some 0 then .hangs
  else match p.rxq with
    | [] => .empty
    | b :: t => .byte b { p with rxq := t, readsLeft := p.readsLeft.map (· - 1) }

/-- `PushWrite(bytes)` (60_exceptions R313): the transport accepts the bytes for sending, in order. -/
def PushTransport.write (p : PushTransport) (bytes : List Byte) : PushTransport :=
  { p with txPending := p.txPending ++ bytes }

/-- What holds once `PushFlush()` has returned: every byte written so far has been sent (60_exceptions R313). -/
def PushTransport.flushed (p : PushTransport) : PushTransport :=
  { p with txSent := p.txSent ++ p.txPending, txPending := [] }

/-- `PullPoll()` after it has answered `(c, r, f)`: the completed count is 0 (60_exceptions R314). -/
def PullTransport.polled (p : PullTransport) : PullTransport := { p with completed := 0 }

/-- `PullQueue(bytes)` (60_exceptions R314): one more transaction is queued, and in flight. -/
def PullTransport.queue (p : PullTransport) (bytes : List Byte) : PullTransport :=
  { p with queued := p.queued ++ [bytes], inFlight := p.inFlight + 1 }

end Sys2Proof.Machine
end

