-- ==== Sys2Proof/Machine/Operands.lean ====
section
/-! DEFINITION. Operand forms and result forms: the parser select (30_encoding R115), the response word and its bytes
(30_encoding R104), frame records and event records (30_encoding R111, R112). -/

namespace Sys2Proof.Machine

/-- The parser instance a SEL operand selects (10_state R33). -/
def State.parser (s : State) : ParserSel → Parser
  | .pp => s.pp
  | .pl => s.pl

/-- The state with the selected parser instance replaced. -/
def State.setParser (s : State) (sel : ParserSel) (P : Parser) : State :=
  { s with
    pp := match sel with
      | .pp => P
      | .pl => s.pp
    pl := match sel with
      | .pp => s.pl
      | .pl => P }

/-- The response word: STATUS 7:0, RB8 15:8, RH16 31:16 (30_encoding R104). -/
def Response.word (r : Response) : U32 := r.h16 ++ r.b8 ++ r.status.code

/-- A response carried as bytes: the word, least significant byte first, then the data phase (30_encoding R104). -/
def Response.bytes (r : Response) : List Byte := u32le r.word ++ r.data

/-- A frame record `[id, lo8(n), hi8(n)] ++ payload` (30_encoding R111). -/
def Frame.record (f : Frame) : List Byte := [f.id, lo8 f.len, hi8 f.len] ++ f.payload

/-- An event record: one kind byte, then a body (30_encoding R112). -/
def RouterEvent.record : RouterEvent → List Byte
  | .dispatchPull f => 0x00 :: f.record
  | .dispatchPush f => 0x01 :: f.record
  | .change id ch => [0x02, id, if ch.tareRequested then 1 else 0] ++ u32le ch.scale

/-- A u32 count, then that many frame records (30_encoding R120). -/
def frameRecords (frames : List Frame) : List Byte :=
  u32le (image32 frames.length) ++ frames.flatMap Frame.record

/-- A u32 count, then that many event records (30_encoding R120). -/
def eventRecords (events : List RouterEvent) : List Byte :=
  u32le (image32 events.length) ++ events.flatMap RouterEvent.record

/-- `1 if armed else 0` in RB8 (44_pull_bus_scheduler R239, 45_router R267). -/
def armedByte (armed : Bool) : Byte := if armed then 1 else 0

end Sys2Proof.Machine
end

