-- ==== Sys2Proof/Machine/RingBuffer.lean ====
section
/-! DEFINITION. The ring buffer (41_ring_buffer): the primitives, and the meanings of RB_PUSH, RB_POP and
RB_IS_EMPTY. -/

namespace Sys2Proof.Machine

/-- `rb.count = (rb.head - rb.tail) mod 2^IDX_W` (10_state R44). -/
def RingBuffer.count (cfg : Params) (rb : RingBuffer) : Nat :=
  (rb.head + (2 ^ cfg.idxW - rb.tail % 2 ^ cfg.idxW)) % 2 ^ cfg.idxW

/-- `rbPush(b)` (41_ring_buffer R162): one atomic step, so that the order of the data write and the index write
(20_memory R80) shows nowhere. -/
def rbPush (cfg : Params) (rb : RingBuffer) (b : Byte) : Except Fault (Bool × RingBuffer) :=
  if rb.count cfg = cfg.rbCap then .ok (false, rb)
  else do
    let mem ← memWrite cfg.rbCap rb.mem (rb.head % cfg.rbCap) b
    .ok (true, { rb with mem := mem, head := (rb.head + 1) % 2 ^ cfg.idxW })

/-- `rbPop()` (41_ring_buffer R163): one atomic step. -/
def rbPop (cfg : Params) (rb : RingBuffer) : Except Fault (Option Byte × RingBuffer) :=
  if rb.head = rb.tail then .ok (none, rb)
  else do
    let b ← memRead cfg.rbCap rb.mem (rb.tail % cfg.rbCap)
    .ok (some b, { rb with tail := (rb.tail + 1) % 2 ^ cfg.idxW })

/-- `rbIsEmpty()` (41_ring_buffer R164). -/
def rbIsEmpty (rb : RingBuffer) : Bool := rb.head == rb.tail

/-- RB_PUSH: enqueue one byte; a failure counts nowhere (41_ring_buffer R165). -/
def execRbPush (b : Byte) (s : State) : Host.Outcome State Fault Refusal :=
  guarded (.rbPush b) s do
    let (pushed, rb) ← rbPush s.cfg s.rb b
    .ok ({ s with rb := rb }.respond (Status.ofBool pushed) 0 0 [])

/-- RB_POP: dequeue one byte (41_ring_buffer R166). -/
def execRbPop (s : State) : Host.Outcome State Fault Refusal :=
  guarded .rbPop s do
    let (popped, rb) ← rbPop s.cfg s.rb
    match popped with
    | some b => .ok ({ s with rb := rb }.respond .ok b 0 [])
    | none => .ok (s.respond .no 0 0 [])

/-- RB_IS_EMPTY: test for empty (41_ring_buffer R167). -/
def execRbIsEmpty (s : State) : Host.Outcome State Fault Refusal :=
  guarded .rbIsEmpty s (.ok (s.respond (Status.ofBool (rbIsEmpty s.rb)) 0 0 []))

end Sys2Proof.Machine
end

