-- ==== Sys2Proof/Machine/Control.lean ====
section
/-! DEFINITION. The read-only register file (46_control), and the meaning of RD_REG. -/

namespace Sys2Proof.Machine

/-- The value of a register (46_control R281 to R285). -/
def regValue (s : State) : Reg → U32
  | .cfgMaxPayload => image32 s.cfg.maxPayload
  | .cfgRbCap => image32 s.cfg.rbCap
  | .cfgXferCap => image32 s.cfg.xferCap
  | .cfgAlign => image32 s.cfg.align
  | .cfgOptions => optionsWord s.cfg
  | .cfgIdxW => image32 s.cfg.idxW
  | .cntSendReject => s.cntSendReject
  | .cntQueueDrop => s.cntQueueDrop
  | .status => statusWord s
  | .rbCount => image32 (s.rb.count s.cfg)

/-- RD_REG: read one register (46_control R280). -/
def execRdReg (reg : Reg) (s : State) : Host.Outcome State Fault Refusal :=
  guarded (.rdReg reg) s (.ok (s.respond .ok 0 0 (u32le (regValue s reg))))

end Sys2Proof.Machine
end

