-- ==== Sys2Proof/Machine/Checksum.lean ====
section
/-! DEFINITION. The checksum unit (40_checksum): the functions, and the meanings of CRC_UPDATE and CRC16. -/

namespace Sys2Proof.Machine

/-- The reflected polynomial of a profile (00_scope R12, 40_checksum R142). -/
def crcPoly : CrcProfile → U16
  | .asWritten => 0xA001
  | .x25Named => 0x8408

/-- The final XOR of a profile: none for `AS_WRITTEN` (40_checksum R141, R142). -/
def crcFinal : CrcProfile → U16 → U16
  | .asWritten, c => c
  | .x25Named, c => c ^^^ 0xFFFF

/-- One turn of the loop of 40_checksum R140. -/
def crcShift (poly c : U16) : U16 := if c.getLsbD 0 then (c >>> 1) ^^^ poly else c >>> 1

/-- `crcUpdate(crc, b)` (40_checksum R140, R142): the loop's eight turns. PRESUMED (notes/assumptions/20): the
bit-serial form is general knowledge. -/
def crcUpdate (prof : CrcProfile) (crc : U16) (b : Byte) : U16 :=
  let turn := crcShift (crcPoly prof)
  turn (turn (turn (turn (turn (turn (turn (turn (crc ^^^ b.setWidth 16))))))))

/-- The check register after a byte sequence. -/
def crcFeed (prof : CrcProfile) : U16 → List Byte → U16
  | c, [] => c
  | c, b :: t => crcFeed prof (crcUpdate prof c b) t

/-- `crc16(id, data)` from the seed 0xFFFF (40_checksum R141, R142). -/
def crc16 (prof : CrcProfile) (id : Byte) (data : List Byte) : U16 :=
  crcFinal prof (crcFeed prof (crcUpdate prof 0xFFFF id) data)

/-- CRC_UPDATE: one checksum step, without the final XOR (40_checksum R143). -/
def execCrcUpdate (crc : U16) (b : Byte) (s : State) : Host.Outcome State Fault Refusal :=
  guarded (.crcUpdate crc b) s (.ok (s.respond .ok 0 (crcUpdate s.cfg.crcProfile crc b) []))

/-- CRC16: the checksum of an id and a data sequence (40_checksum R144). -/
def execCrc16 (id : Byte) (data : List Byte) (s : State) : Host.Outcome State Fault Refusal :=
  guarded (.crc16 id data) s (.ok (s.respond .ok 0 (crc16 s.cfg.crcProfile id data) []))

end Sys2Proof.Machine
end

