-- ==== Sys2Proof/Machine/FrameParser.lean ====
section
/-! DEFINITION. The frame parser (42_frame_parser): `processByte`, one rule per state, and the meanings of PARSE_BYTE
and GET_FRAME. -/

namespace Sys2Proof.Machine

/-- State SEEK1 (42_frame_parser R182). -/
def Parser.seek1Byte (P : Parser) (b : Byte) : Parser :=
  if b = stx1 then { P with ps := .seek2 } else { P with ps := .seek1 }

/-- State SEEK2 (42_frame_parser R183). -/
def Parser.seek2Byte (cfg : Params) (P : Parser) (b : Byte) : Parser :=
  if b = stx2 then { P with ps := .lenLo }
  else if b = stx1 ∧ cfg.seek2OnA5 = .hold then { P with ps := .seek2 }
  else { P with ps := .seek1 }

/-- State LEN_LO (42_frame_parser R184). -/
def Parser.lenLoByte (P : Parser) (b : Byte) : Parser :=
  { P with len := b.setWidth 16, ps := .lenHi }

/-- State LEN_HI, with the length check (42_frame_parser R185). -/
def Parser.lenHiByte (cfg : Params) (P : Parser) (b : Byte) : Parser :=
  let len := P.len ||| (b.setWidth 16 <<< 8)
  if len = 0 ∨ len.toNat > cfg.maxPayload + 1 then { P with len := len, ps := .seek1 }
  else { P with len := len, ps := .id }

/-- State ID (42_frame_parser R186). -/
def Parser.idByte (P : Parser) (b : Byte) : Parser :=
  { P with id := b, idx := 0, ps := if P.len = 1 then .crcLo else .payload }

/-- State PAYLOAD (42_frame_parser R187). -/
def Parser.payloadByte (cfg : Params) (P : Parser) (b : Byte) : Except Fault Parser := do
  let acc ← memWrite cfg.maxPayload P.acc P.idx.toNat b
  let idx := P.idx + 1
  .ok { P with acc := acc, idx := idx, ps := if idx = P.len - 1 then .crcLo else .payload }

/-- State CRC_LO (42_frame_parser R188). -/
def Parser.crcLoByte (P : Parser) (b : Byte) : Parser :=
  { P with crclo := b, ps := .crcHi }

/-- State CRC_HI: the check and the publication (42_frame_parser R189). -/
def Parser.crcHiByte (cfg : Params) (P : Parser) (b : Byte) : Except Fault (Parser × Bool) := do
  let n := P.len - 1
  let payload ← memReadPrefix cfg.maxPayload P.acc n.toNat
  if u16Of P.crclo b = crc16 cfg.crcProfile P.id payload then
    let frmPayload ← memWriteBytes cfg.maxPayload P.frmPayload 0 payload
    .ok ({ P with ps := .seek1, frmId := P.id, frmLen := n, frmPayload := frmPayload, frmValid := true }, true)
  else .ok ({ P with ps := .seek1 }, false)

/-- `processByte(P, b)` (42_frame_parser R180, R181): the new parser, and whether the byte completed a frame. -/
def Parser.processByte (cfg : Params) (P : Parser) (b : Byte) : Except Fault (Parser × Bool) :=
  match P.ps with
  | .seek1 => .ok (P.seek1Byte b, false)
  | .seek2 => .ok (P.seek2Byte cfg b, false)
  | .lenLo => .ok (P.lenLoByte b, false)
  | .lenHi => .ok (P.lenHiByte cfg b, false)
  | .id => .ok (P.idByte b, false)
  | .payload => do
    let Q ← P.payloadByte cfg b
    .ok (Q, false)
  | .crcLo => .ok (P.crcLoByte b, false)
  | .crcHi => P.crcHiByte cfg b

/-- The published frame `(P.frm_id, P.frm_len, P.frm_payload[0 .. P.frm_len))` (10_state R40). -/
def Parser.frame (cfg : Params) (P : Parser) : Except Fault Frame := do
  let payload ← memReadPrefix cfg.maxPayload P.frmPayload P.frmLen.toNat
  .ok { id := P.frmId, len := P.frmLen, payload := payload }

/-- A byte sequence through a parser, in order: the new parser and the frames completed, each captured when it
completes (44_pull_bus_scheduler R232). -/
def Parser.feed (cfg : Params) : Parser → List Byte → Except Fault (Parser × List Frame)
  | P, [] => .ok (P, [])
  | P, b :: t => do
    let (Q, done) ← P.processByte cfg b
    if done then
      let f ← Q.frame cfg
      let (R, fs) ← Parser.feed cfg Q t
      .ok (R, f :: fs)
    else Parser.feed cfg Q t

/-- PARSE_BYTE: feed one byte to a parser (42_frame_parser R195). -/
def execParseByte (sel : ParserSel) (b : Byte) (s : State) : Host.Outcome State Fault Refusal :=
  guarded (.parseByte sel b) s do
    let (P, done) ← (s.parser sel).processByte s.cfg b
    .ok ((s.setParser sel P).respond (Status.ofBool done) 0 0 [])

/-- GET_FRAME: read a parser's published frame (42_frame_parser R196). -/
def execGetFrame (sel : ParserSel) (s : State) : Host.Outcome State Fault Refusal :=
  guarded (.getFrame sel) s
    (if (s.parser sel).frmValid then do
      let f ← (s.parser sel).frame s.cfg
      .ok (s.respond .ok 0 0 f.record)
    else .ok (s.respond .no 0 0 []))

end Sys2Proof.Machine
end

