-- ==== Sys2Proof/Machine/PullBusScheduler.lean ====
section
/-! DEFINITION. The pull-bus scheduler (44_pull_bus_scheduler): the scheduling pass, and the meaning of PULL_POLL. -/

namespace Sys2Proof.Machine

/-- The checks on a transport report `(c, r, f)`, in their order: the first fault that applies
(44_pull_bus_scheduler R231). -/
def reportFault (tip : Bool) (txLen c r f : Nat) : Option FaultReason :=
  let outstanding := tip && c == 0
  if c > 1 then some .multipleCompletions
  else if c = 1 ∧ tip = false then some .completionWithoutArm
  else if c = 1 ∧ r > txLen then some .rxOverrun
  else if f > 1 then some .inFlightOverflow
  else if f = 1 ∧ outstanding = false then some .inFlightWithoutArm
  else if f = 0 ∧ outstanding = true then some .lostTransaction
  else none

/-- Completion and drain, when `c = 1`: the `r` received bytes go through `PL`, and no transaction is in flight any
more (44_pull_bus_scheduler R232). -/
def drain (c r : Nat) (s : State) : Except Fault (State × List Frame) :=
  if c = 1 then do
    let bytes ← memReadPrefix s.cfg.xferCap s.rx r
    let (P, frames) ← s.pl.feed s.cfg bytes
    .ok ({ s with pl := P, tip := false }, frames)
  else .ok (s, [])

/-- One ring-buffer access of filling the transmit buffer, `m` bytes in it (44_pull_bus_scheduler R234): the new
state, the number of bytes in the buffer, and whether a further pop is attempted. -/
def fillOne (m : Nat) (s : State) : Except Fault (State × Nat × Bool) := do
  let (popped, rb) ← rbPop s.cfg s.rb
  match popped with
  | none => .ok (s, m, false)
  | some b => do
    let tx ← memWrite s.cfg.xferCap s.tx m b
    .ok ({ s with rb := rb, tx := tx }, m + 1, decide (m + 1 < s.cfg.xferCap))

/-- At most `fuel` accesses of filling the transmit buffer, without interruption. -/
def fillAll : Nat → Nat → State → Except Fault (State × Nat)
  | 0, m, s => .ok (s, m)
  | fuel + 1, m, s => do
    let (t, m', more) ← fillOne m s
    if more then fillAll fuel m' t else .ok (t, m')

/-- The length `L` of a transfer of `m` bytes from the ring buffer (44_pull_bus_scheduler R235). -/
def transferLength (cfg : Params) (m : Nat) : Nat := if m = 0 then cfg.align else roundup m cfg.align

/-- Padding, and `tx_len <- L` (44_pull_bus_scheduler R236, R237). -/
def pad (m : Nat) (s : State) : Except Fault State := do
  let len := transferLength s.cfg m
  let tx ← memWriteBytes s.cfg.xferCap s.tx m (List.replicate (len - m) filler)
  .ok { s with tx := tx, txLen := BitVec.ofNat 16 len }

/-- How a command goes on after its scheduling pass, given the frames drained and whether the pass armed. -/
abbrev AfterPass := List Frame → Bool → State → Except Fault State

/-- `PullQueue(tx[0 .. tx_len))` and `tip <- true` (44_pull_bus_scheduler R237), and the rest of the command: a call that
does not return leaves the command in progress (60_exceptions R315). -/
def queueTransfer (pass : Pass) (finish : AfterPass) (frames : List Frame) (s : State) : Except Fault State :=
  if s.pull.queueReturns then do
    let bytes ← memReadPrefix s.cfg.xferCap s.tx s.txLen.toNat
    finish frames true { s with pull := s.pull.queue bytes, tip := true }
  else .ok (s.setProgress (.queueing pass frames))

/-- Padding and arming with `m` bytes in the transmit buffer, and the rest of the command (44_pull_bus_scheduler R235 to
R237). -/
def arm (pass : Pass) (finish : AfterPass) (frames : List Frame) (m : Nat) (s : State) : Except Fault State := do
  let t ← pad m s
  queueTransfer pass finish frames t

/-- One atomic step of a pass that is filling the transmit buffer, as with two contexts: one pop and the work up to the
next (20_memory R76). -/
def fillStep (pass : Pass) (finish : AfterPass) (frames : List Frame) (m : Nat) (s : State) : Except Fault State := do
  let (t, m', more) ← fillOne m s
  if more then .ok (t.setProgress (.filling pass frames m')) else arm pass finish frames m' t

/-- The arming part of a pass, when no transaction is in flight (44_pull_bus_scheduler R233). With one context it runs
to the command's end; with two, the first atomic step goes up to the second pop (20_memory R76,
notes/assumptions/9). -/
def fillAndArm (pass : Pass) (finish : AfterPass) (frames : List Frame) (s : State) : Except Fault State :=
  if s.twoContexts then fillStep pass finish frames 0 s
  else do
    let (t, m) ← fillAll s.cfg.xferCap 0 s
    arm pass finish frames m t

/-- A scheduling pass after its `PullPoll` has returned: the report is checked, its completed count being reset by the
call (60_exceptions R314); then the drain; then the arming (44_pull_bus_scheduler R230). -/
def passAfterPoll (pass : Pass) (finish : AfterPass) (s : State) : Except Fault State :=
  let p := s.pull
  let t := { s with pull := p.polled }
  match reportFault s.tip s.txLen.toNat p.completed p.rxCount p.inFlight with
  | some reason => .ok (t.raise reason)
  | none => do
    let (u, frames) ← drain p.completed p.rxCount t
    if p.inFlight = 0 then fillAndArm pass finish frames u else finish frames false u

/-- `schedPass()` (44_pull_bus_scheduler R230) and what the command does after it: a `PullPoll` that does not return
leaves the command in progress (60_exceptions R315). -/
def schedPass (pass : Pass) (finish : AfterPass) (s : State) : Except Fault State :=
  if s.pull.pollReturns then passAfterPoll pass finish s else .ok (s.setProgress (.polling pass))

/-- The response of PULL_POLL (44_pull_bus_scheduler R239). -/
def finishPoll : AfterPass := fun frames armed s =>
  .ok (s.respond .ok (armedByte armed) 0 (frameRecords frames))

/-- PULL_POLL: one pull-bus scheduling pass (44_pull_bus_scheduler R239). -/
def execPullPoll (s : State) : Host.Outcome State Fault Refusal :=
  guarded .pullPoll s (schedPass .poll finishPoll s)

end Sys2Proof.Machine
end

