-- ==== Sys2Proof/Machine/DualBusRouter.lean ====
section
/-! DEFINITION. The dual-bus router (45_router): the routing pass, and the meaning of ROUTER_PASS. -/

namespace Sys2Proof.Machine

/-- The Change of a qualifying frame (45_router R261). -/
def qualifyingChange (cfg : Params) (f : Frame) : Option Change :=
  if f.id = cfg.changeId then decodeChange cfg f.payload else none

/-- The pull phase: the events of the pull frames up to the first qualifying Change, and whether there was one
(45_router R263, R264). -/
def pullPhase (cfg : Params) : List Frame → List RouterEvent × Bool
  | [] => ([], false)
  | f :: fs =>
    match qualifyingChange cfg f with
    | some ch => ([.change f.id ch], true)
    | none =>
      let (events, found) := pullPhase cfg fs
      (.dispatchPull f :: events, found)

/-- What the push phase leaves: the parser `PP`, the transport, the bytes read, the events, whether the last event is a
Change, and, where a `PushReadByte` did not return, how many calls were still to be made, that one among them. -/
structure PushResult where
  parser : Parser
  transport : PushTransport
  used : Nat
  events : List RouterEvent
  found : Bool
  stuck : Option Nat

/-- The push phase over at most `k` bytes (45_router R263, R265). -/
def pushPhase (cfg : Params) : Nat → Parser → PushTransport → Except Fault PushResult
  | 0, P, p => .ok { parser := P, transport := p, used := 0, events := [], found := false, stuck := none }
  | k + 1, P, p =>
    match p.readByte with
    | .hangs => .ok { parser := P, transport := p, used := 0, events := [], found := false, stuck := some (k + 1) }
    | .empty => .ok { parser := P, transport := p, used := 0, events := [], found := false, stuck := none }
    | .byte b p' => do
      let (Q, done) ← P.processByte cfg b
      if done then
        let f ← Q.frame cfg
        match qualifyingChange cfg f with
        | some ch =>
          .ok { parser := Q, transport := p', used := 1, events := [.change f.id ch], found := true,
                stuck := none }
        | none => do
          let r ← pushPhase cfg k Q p'
          .ok { r with used := r.used + 1, events := .dispatchPush f :: r.events }
      else do
        let r ← pushPhase cfg k Q p'
        .ok { r with used := r.used + 1 }

/-- The push phase with at most `k` bytes still to be read, `used` bytes read and the events so far, and the response of
ROUTER_PASS (45_router R263, R267): a `PushReadByte` that does not return leaves the command in progress
(60_exceptions R315). -/
def readPush (k used : Nat) (armed : Bool) (events : List RouterEvent) (s : State) : Except Fault State := do
  let r ← pushPhase s.cfg k s.pp s.push
  let t := { s with pp := r.parser, push := r.transport }
  match r.stuck with
  | some left => .ok (t.setProgress (.reading left (used + r.used) armed (events ++ r.events)))
  | none => .ok (t.respond (Status.ofBool r.found) (armedByte armed) (BitVec.ofNat 16 (used + r.used))
      (eventRecords (events ++ r.events)))

/-- `PushAvailable()`, read once at the start of the push phase (45_router R265), and that phase: a call that does not
return leaves the command in progress (60_exceptions R315). -/
def countPush (armed : Bool) (events : List RouterEvent) (s : State) : Except Fault State :=
  if s.push.availableReturns then readPush s.push.available 0 armed events s
  else .ok (s.setProgress (.counting armed events))

/-- The two phases of a routing pass after its scheduling pass, and the response of ROUTER_PASS (45_router R263,
R267). -/
def finishRouter : AfterPass := fun frames armed s =>
  let (events, found) := pullPhase s.cfg frames
  if found then .ok (s.respond .ok (armedByte armed) 0 (eventRecords events))
  else countPush armed events s

/-- How a command goes on after its scheduling pass. -/
def afterPass : Pass → AfterPass
  | .poll => finishPoll
  | .router => finishRouter

/-- ROUTER_PASS: one routing pass, with its scheduling pass (45_router R267). -/
def execRouterPass (s : State) : Host.Outcome State Fault Refusal :=
  guarded .routerPass s (schedPass .router finishRouter s)

end Sys2Proof.Machine
end

