-- ==== Sys2Proof/Machine/FrameEncoder.lean ====
section
/-! DEFINITION. The frame encoder (43_frame_encoder): `encodeFrame`, and the meanings of SEND_PUSH and SEND_QUEUE. -/

namespace Sys2Proof.Machine

/-- `encodeFrame(id, payload)` (43_frame_encoder R210, 30_encoding R106). -/
def encodeFrame (prof : CrcProfile) (id : Byte) (payload : List Byte) : List Byte :=
  let len : U16 := BitVec.ofNat 16 (payload.length + 1)
  let c := crc16 prof id payload
  [stx1, stx2, lo8 len, hi8 len, id] ++ payload ++ [lo8 c, hi8 c]

/-- The send precondition of both variants (43_frame_encoder R211). -/
def sendAccepted (cfg : Params) (payload : List Byte) : Bool :=
  decide (0 < payload.length) && decide (payload.length ≤ cfg.maxPayload)

/-- A rejected send: counted, DROPPED, nothing written (43_frame_encoder R211). -/
def State.rejectSend (s : State) : State :=
  { s with cntSendReject := s.cntSendReject + 1 }.respond .dropped 0 0 []

/-- The end of SEND_PUSH, once its `PushFlush` has returned (43_frame_encoder R212). -/
def State.finishFlush (s : State) : State := { s with push := s.push.flushed }.respond .ok 0 0 []

/-- `PushFlush()` of SEND_PUSH: it returns, or the command stays in progress (60_exceptions R315). -/
def State.flush (s : State) : State :=
  if s.push.flushReturns then s.finishFlush else s.setProgress .flushing

/-- `PushWrite(F)` and `PushFlush()` of SEND_PUSH (43_frame_encoder R212): a call that does not return leaves the command
in progress (60_exceptions R315). -/
def State.writeAndFlush (s : State) (frame : List Byte) : State :=
  if s.push.writeReturns then { s with push := s.push.write frame }.flush else s.setProgress (.writing frame)

/-- SEND_PUSH: encode a frame and write it to the push bus at once (43_frame_encoder R212). -/
def execSendPush (id : Byte) (payload : List Byte) (s : State) : Host.Outcome State Fault Refusal :=
  guarded (.sendPush id payload) s
    (if sendAccepted s.cfg payload then
      .ok (s.writeAndFlush (encodeFrame s.cfg.crcProfile id payload))
    else .ok s.rejectSend)

/-- `cnt_queue_drop <- (cnt_queue_drop + n) mod 2^32` (43_frame_encoder R216). -/
def State.countDrops (s : State) (n : Nat) : State :=
  { s with cntQueueDrop := s.cntQueueDrop + BitVec.ofNat 32 n }

/-- The end of SEND_QUEUE: OK, RH16 the number of bytes enqueued (43_frame_encoder R213). -/
def State.finishSend (s : State) (k : Nat) : State := s.respond .ok 0 (sendCount16 k) []

/-- One ring-buffer access of SEND_QUEUE with the work up to the next (43_frame_encoder R213, 20_memory R76): push
`b`, `after` bytes of the frame being left behind it and `k` pushed before it. It gives the new state, the number
pushed so far, and whether a further push is attempted: under `STOP` a failure ends the attempts and counts every byte
left (R216). -/
def pushOne (b : Byte) (after k : Nat) (s : State) : Except Fault (State × Nat × Bool) := do
  let (pushed, rb) ← rbPush s.cfg s.rb b
  if pushed then .ok ({ s with rb := rb }, k + 1, true)
  else match s.cfg.queueOnFull with
    | .stop => .ok (s.countDrops (1 + after), k, false)
    | .goOn => .ok (s.countDrops 1, k, true)

/-- The pushes of SEND_QUEUE without interruption, as with one context (20_memory R76). -/
def enqueueAll : List Byte → Nat → State → Except Fault State
  | [], k, s => .ok (s.finishSend k)
  | b :: rest, k, s => do
    let (t, k', more) ← pushOne b rest.length k s
    if more then enqueueAll rest k' t else .ok (t.finishSend k')

/-- One atomic step of a SEND_QUEUE in progress, as with two contexts (20_memory R76). -/
def enqueueStep (rest : List Byte) (k : Nat) (s : State) : Except Fault State :=
  match rest with
  | [] => .ok (s.finishSend k)
  | b :: rest => do
    let (t, k', more) ← pushOne b rest.length k s
    if more && !rest.isEmpty then .ok (t.setProgress (.sending rest k')) else .ok (t.finishSend k')

/-- SEND_QUEUE: encode a frame and enqueue it for the pull bus (43_frame_encoder R213). With one context the command
runs to its end; with two, its first atomic step goes up to the second push (20_memory R76, notes/assumptions/9). -/
def execSendQueue (id : Byte) (payload : List Byte) (s : State) : Host.Outcome State Fault Refusal :=
  guarded (.sendQueue id payload) s
    (if sendAccepted s.cfg payload then
      if s.twoContexts then enqueueStep (encodeFrame s.cfg.crcProfile id payload) 0 s
      else enqueueAll (encodeFrame s.cfg.crcProfile id payload) 0 s
    else .ok s.rejectSend)

end Sys2Proof.Machine
end

