-- ==== Sys2Proof/Machine/Sequencer.lean ====
section
/-! DEFINITION. What stands around a command: reset (70_reset R330), what the outside does (60_exceptions R313 to
R319), the continuation of a command in progress (20_memory R76), and the fetch of the next command (30_encoding R101,
R102). -/

namespace Sys2Proof.Machine

/-- Reset: every element of the block at its value of 10_state R55; the parameters, the transports and the host's side
stay (70_reset R330). Unspecified elements are 0 (notes/assumptions/4). -/
def State.blockReset (s : State) : State :=
  { s with
    pp := .reset
    pl := .reset
    rb := .reset
    tip := false
    tx := []
    txLen := 0
    rx := []
    cntSendReject := 0
    cntQueueDrop := 0
    fault := false
    faultReason := 0
    resetPending := false }

/-- The port a context uses: with one context, C's (notes/assumptions/10). -/
def State.portContext (s : State) (x : Context) : Context := if s.twoContexts then x else .c

/-- What the pull transport writes into `rx`: bytes from index 0 on, inside the buffer (20_memory R86). -/
def State.receive (s : State) (bytes : List Byte) : State :=
  { s with rx := Memory.writeBytes s.rx 0 (bytes.take s.cfg.xferCap) }

/-- The remote master ends the transfer in flight, in which it clocked `bytes` in (60_exceptions R314, R319): the
transport keeps at most the transaction's length of them (R315, notes/assumptions/17). With no transaction in flight
nothing of the block's is involved (R319). -/
def State.masterClock (s : State) (bytes : List Byte) : State :=
  if s.pull.inFlight = 0 then s
  else
    let out := s.pull.queued.getLast?.getD []
    let n := min bytes.length out.length
    { s.receive (bytes.take n) with pull :=
      { s.pull with
        completed := s.pull.completed + 1
        rxCount := n
        inFlight := s.pull.inFlight - 1
        sent := s.pull.sent ++ out.take n } }

/-- The transport call returns from now on, or does not (60_exceptions R304, R315; notes/assumptions/13). -/
def State.setCall (s : State) (call : TransportCall) (returns : Bool) : State :=
  match call with
  | .pushWrite => { s with push := { s.push with writeReturns := returns } }
  | .pushFlush => { s with push := { s.push with flushReturns := returns } }
  | .pushAvailable => { s with push := { s.push with availableReturns := returns } }
  | .pullPoll => { s with pull := { s.pull with pollReturns := returns } }
  | .pullQueue => { s with pull := { s.pull with queueReturns := returns } }

/-- What the outside does, between two atomic steps of the block. A turn is no act of its own: `step` takes it. -/
def State.applyInput (s : State) : Input → State
  | .turn x => { s with turn := x }
  | .issue x bytes =>
    let q := s.portOf (s.portContext x)
    s.withPort (s.portContext x) { q with stream := q.stream ++ bytes }
  | .reset => { s with resetPending := true }
  | .pushArrive bytes => { s with push := { s.push with rxq := s.push.rxq ++ bytes } }
  | .pushReport n => { s with push := { s.push with availReport := n } }
  | .callReturns call returns => s.setCall call returns
  | .pushReadsLeft n => { s with push := { s.push with readsLeft := n } }
  | .masterClock bytes => s.masterClock bytes
  | .pullReport c r f bytes =>
    { s.receive bytes with pull := { s.pull with completed := c, rxCount := r, inFlight := f } }

/-- One more atomic step of the command in progress (20_memory R76). A transport call that did not return is looked at
again: the step does nothing as long as it does not return (60_exceptions R315). -/
def resume (s : State) : Except Fault State :=
  match s.port.progress with
  | .idle => .ok s
  | .sending rest k => enqueueStep rest k s
  | .filling pass frames m => fillStep pass (afterPass pass) frames m s
  | .writing frame => .ok (s.writeAndFlush frame)
  | .flushing => .ok s.flush
  | .polling pass => schedPass pass (afterPass pass) s
  | .queueing pass frames => queueTransfer pass (afterPass pass) frames s
  | .counting armed events => countPush armed events s
  | .reading k used armed events => readPush k used armed events s

/-- Whether a context has no command in progress. -/
def Port.isIdle (q : Port) : Bool := q.progress == .idle

/-- What the context that takes the step does. -/
inductive Action
  /-- Nothing: it waits for the rest of its next command, or for a reset to be taken. -/
  | wait
  /-- The reset is taken, between commands (70_reset R330). -/
  | reset
  /-- The command in progress goes on. -/
  | resume
  /-- A word that spells no command is taken from the stream, `rest` being left (30_encoding R114). -/
  | illegal (why : IllegalReason) (rest : List Byte)
  /-- A command is taken from the stream, `rest` being left. -/
  | run (i : Instr) (rest : List Byte)
  deriving DecidableEq, Repr

/-- The fetch: the next command of the issuing context's stream (30_encoding R101, R102). A word that spells no
command has no data phase (R102), so it is four bytes. -/
def fetch (stream : List Byte) : Action :=
  match decode stream with
  | .ok (i, rest) => .run i rest
  | .error (.illegal why) => .illegal why (stream.drop 4)
  | .error .truncated => .wait

/-- What the context whose turn it is does (notes/assumptions/8, 12). -/
def nextAction (s : State) : Action :=
  if s.port.isIdle = false then .resume
  else if s.resetPending then (if s.portP.isIdle && s.portC.isIdle then .reset else .wait)
  else fetch s.port.stream

/-- The state with what is left of the issuing context's stream. -/
def State.setStream (s : State) (rest : List Byte) : State := s.setPort { s.port with stream := rest }

/-- The state with an instruction's bytes in front of the stream of the context that takes the next step, nothing in
progress there and nothing of the outside before it. -/
def State.placeCommand (s : State) (bytes : List Byte) : State :=
  { s.setPort { s.port with stream := bytes ++ s.port.stream, progress := .idle } with
    resetPending := false
    inputs := .turn s.turn :: s.inputs }

end Sys2Proof.Machine
end

