-- ==== Sys2Proof/Machine/Dispatch.lean ====
section
/-! DEFINITION. The dispatch: one arm per command, each a direct call of its meaning. -/

namespace Sys2Proof.Machine

def exec (i : Instr) (s : State) : Host.Outcome State Fault Refusal :=
  match i with
  | .crcUpdate crc b => Sys2Proof.Machine.execCrcUpdate crc b s
  | .crc16 id data => Sys2Proof.Machine.execCrc16 id data s
  | .rbPush b => Sys2Proof.Machine.execRbPush b s
  | .rbPop => Sys2Proof.Machine.execRbPop s
  | .rbIsEmpty => Sys2Proof.Machine.execRbIsEmpty s
  | .parseByte sel b => Sys2Proof.Machine.execParseByte sel b s
  | .getFrame sel => Sys2Proof.Machine.execGetFrame sel s
  | .sendPush id payload => Sys2Proof.Machine.execSendPush id payload s
  | .sendQueue id payload => Sys2Proof.Machine.execSendQueue id payload s
  | .pullPoll => Sys2Proof.Machine.execPullPoll s
  | .routerPass => Sys2Proof.Machine.execRouterPass s
  | .rdReg reg => Sys2Proof.Machine.execRdReg reg s

end Sys2Proof.Machine
end

