-- ==== Sys2Proof/Machine/Step.lean ====
section
/-! DEFINITION. One step of the machine: an act of the outside, or one atomic step of a context (20_memory R76). -/

namespace Sys2Proof.Machine

/-- The context whose turn it is takes its next atomic step. -/
def takeTurn (s : State) : Host.Outcome State Fault Refusal :=
  match nextAction s with
  | .wait => .next s
  | .reset => .next s.blockReset
  | .resume => outcome (resume s)
  | .illegal _ rest => .next (s.setStream rest).answerIllegal
  | .run i rest => exec i (s.setStream rest)

/-- One step: the next act of the outside; with none left, the context named last goes on
(notes/assumptions/8). -/
def step (s : State) : Host.Outcome State Fault Refusal :=
  if paramsValid s.cfg = false then .refused .noBlock
  else
    match s.inputs with
    | [] => takeTurn s
    | .turn x :: rest => takeTurn { s with turn := x, inputs := rest }
    | i :: rest => .next ({ s with inputs := rest }.applyInput i)

/-- `s` with the instruction whose bits are `w` in front of the stream the next step fetches from: the next step runs
it. -/
def State.withFetchWord (s : State) (nbits w : Nat) : State := s.placeCommand (tableBytes nbits w)

end Sys2Proof.Machine
end

