-- ==== Sys2Proof/Safety.lean ====
section
/-! DEFINITION. What counts as a good state and a safe step. -/

namespace Sys2Proof.Machine

/-- An array of `size` bytes in the canonical form, with no cell beyond its end. -/
abbrev Memory.within (size : Nat) (m : Memory) : Prop := m.wf ∧ ∀ c ∈ m, c.1 < size

/-- The invariants of a parser (42_frame_parser R198), and the sizes of its arrays. -/
structure Parser.Good (cfg : Params) (P : Parser) : Prop where
  acc : P.acc.within cfg.maxPayload
  frmPayload : P.frmPayload.within cfg.maxPayload
  len : P.ps = .id ∨ P.ps = .payload ∨ P.ps = .crcLo ∨ P.ps = .crcHi →
    1 ≤ P.len.toNat ∧ P.len.toNat ≤ cfg.maxPayload + 1
  idxPayload : P.ps = .payload → P.idx.toNat + 1 < P.len.toNat
  idxCrc : P.ps = .crcLo ∨ P.ps = .crcHi → P.idx.toNat + 1 = P.len.toNat
  frmLen : P.frmValid = true → P.frmLen.toNat ≤ cfg.maxPayload

/-- The invariant of the ring buffer (41_ring_buffer R169), with the widths of its indexes. -/
structure RingBuffer.Good (cfg : Params) (rb : RingBuffer) : Prop where
  mem : rb.mem.within cfg.rbCap
  head : rb.head < 2 ^ cfg.idxW
  tail : rb.tail < 2 ^ cfg.idxW
  count : rb.count cfg ≤ cfg.rbCap

/-- The length of an armed transfer: a positive multiple of ALIGN that fits the buffers (10_state R47). -/
abbrev State.transferFits (s : State) : Prop :=
  s.txLen.toNat % s.cfg.align = 0 ∧ 0 < s.txLen.toNat ∧ s.txLen.toNat ≤ s.cfg.xferCap

/-- What a context's command in progress can be: SEND_QUEUE is P's, the scheduling passes and SEND_PUSH are C's, and with
one context only a transport call that has not returned leaves a command in progress (20_memory R76, R77;
60_exceptions R315). -/
def Progress.good (s : State) : Context → Progress → Prop
  | _, .idle => True
  | .p, .sending rest _ => s.twoContexts = true ∧ rest ≠ []
  | .c, .filling _ _ m => s.twoContexts = true ∧ 0 < m ∧ m < s.cfg.xferCap ∧ s.tip = false
  | .c, .queueing _ _ => s.tip = false ∧ s.transferFits
  | .c, .writing _ => True
  | .c, .flushing => True
  | .c, .polling _ => True
  | .c, .counting _ _ => True
  | .c, .reading _ _ _ _ => True
  | .p, .filling _ _ _ => False
  | .p, .queueing _ _ => False
  | .p, .writing _ => False
  | .p, .flushing => False
  | .p, .polling _ => False
  | .p, .counting _ _ => False
  | .p, .reading _ _ _ _ => False
  | .c, .sending _ _ => False

/-- The invariant of the machine. -/
structure State.Good (s : State) : Prop where
  cfg : paramsValid s.cfg = true
  pp : s.pp.Good s.cfg
  pl : s.pl.Good s.cfg
  rb : s.rb.Good s.cfg
  tx : s.tx.within s.cfg.xferCap
  rx : s.rx.within s.cfg.xferCap
  txLen : s.tip = true → s.transferFits
  /-- A queued transaction is a transmit buffer's start (44_pull_bus_scheduler R237). -/
  queued : ∀ bytes ∈ s.pull.queued, bytes.length ≤ s.cfg.xferCap
  /-- `fault_reason` is 0 exactly when `fault` is false, and at most 7 (10_state R52, 60_exceptions R307). -/
  faultReason : s.faultReason.toNat ≤ 7 ∧ (s.faultReason = 0 ↔ s.fault = false)
  progressP : s.portP.progress.good s .p
  progressC : s.portC.progress.good s .c

/-- The checks that come before a command's own rule come out right: the block exists, and the context may issue the
command (60_exceptions R308). -/
def State.accepts (s : State) (i : Instr) : Prop := paramsValid s.cfg = true ∧ s.admits i = true

/-- `u` is `s` with the context that takes the next atomic step having the turn: the next act is that turn, or no act of
the outside is left. -/
def State.turnedTo (s u : State) : Prop :=
  s.inputs = [] ∧ u = s ∨ ∃ x later, s.inputs = .turn x :: later ∧ u = { s with turn := x, inputs := later }

/-- Every call of the push transport returns (60_exceptions R315). -/
def PushTransport.Returns (p : PushTransport) : Prop :=
  p.writeReturns = true ∧ p.flushReturns = true ∧ p.availableReturns = true ∧ p.readsLeft = none

/-- Every call of the pull transport returns (60_exceptions R315). -/
def PullTransport.Returns (p : PullTransport) : Prop := p.pollReturns = true ∧ p.queueReturns = true

/-- The bytes pushed and not yet popped, oldest first (41_ring_buffer R160). -/
def RingBuffer.contents (cfg : Params) (rb : RingBuffer) : List Byte :=
  (List.range (rb.count cfg)).map fun k => Memory.read rb.mem ((rb.tail + k) % cfg.rbCap)

/-- A report `(c, r, f)` of the pull transport that breaks no duty about completions: none, or one of the armed
transaction (44_pull_bus_scheduler R231). -/
def State.completionSound (s : State) : Prop :=
  s.pull.completed = 0 ∨ s.pull.completed = 1 ∧ s.tip = true ∧ s.pull.rxCount ≤ s.txLen.toNat

/-- The bytes a completed transaction received, none where no transaction completed (44_pull_bus_scheduler R232). -/
def State.received (s : State) : List Byte :=
  if s.pull.completed = 1 then Memory.readPrefix s.rx s.pull.rxCount else []

/-- The next outbound transfer: the oldest queued bytes, at most XFER_CAP, and the filler
(44_pull_bus_scheduler R234 to R236). -/
def State.nextTransfer (s : State) : List Byte :=
  let bytes := (s.rb.contents s.cfg).take s.cfg.xferCap
  bytes ++ List.replicate (transferLength s.cfg bytes.length - bytes.length) filler

/-- `u` is `s` after a scheduling pass that found no transaction in flight, drained `frames` and armed
(44_pull_bus_scheduler R230, R232 to R237). -/
structure ArmedFrom (s u : State) (frames : List Frame) : Prop where
  drained : s.pl.feed s.cfg s.received = .ok (u.pl, frames)
  popped : u.rb.contents s.cfg = (s.rb.contents s.cfg).drop s.cfg.xferCap
  ring : u.rb.mem = s.rb.mem ∧ u.rb.head = s.rb.head
  transfer : Memory.readPrefix u.tx s.nextTransfer.length = s.nextTransfer
  beyond : ∀ k, s.nextTransfer.length ≤ k → Memory.read u.tx k = Memory.read s.tx k
  length : u.txLen.toNat = s.nextTransfer.length
  armed : u.tip = true
  queued : u.pull = { s.pull with
    completed := 0
    inFlight := 1
    queued := s.pull.queued ++ [s.nextTransfer] }
  rest : u = { s with pl := u.pl, rb := u.rb, tx := u.tx, txLen := u.txLen, tip := u.tip, pull := u.pull }

/-- `rb'` is `rb` after the bytes `pushed` were pushed: the slots from `head mod RB_CAP` on hold them, every other slot and
`tail` are as before (41_ring_buffer R162). -/
structure RingBuffer.Pushed (cfg : Params) (rb rb' : RingBuffer) (pushed : List Byte) : Prop where
  contents : rb'.contents cfg = rb.contents cfg ++ pushed
  head : rb'.head = (rb.head + pushed.length) % 2 ^ cfg.idxW
  tail : rb'.tail = rb.tail
  others : ∀ k, (∀ j < pushed.length, k ≠ (rb.head + j) % cfg.rbCap) → Memory.read rb'.mem k = Memory.read rb.mem k

/-- `u` is `s` after one pop of a scheduling pass with `m` bytes in the transmit buffer: the oldest queued byte, if there
is one, is at `tx[m]` (44_pull_bus_scheduler R234). -/
structure PoppedInto (s u : State) (m : Nat) : Prop where
  popped : u.rb.contents s.cfg = (s.rb.contents s.cfg).drop 1
  ring : u.rb.mem = s.rb.mem ∧ u.rb.head = s.rb.head
  byte : ∀ b ∈ (s.rb.contents s.cfg).head?, Memory.read u.tx m = b
  others : ∀ k, k ≠ m ∨ s.rb.contents s.cfg = [] → Memory.read u.tx k = Memory.read s.tx k
  rest : u = { s with rb := u.rb, tx := u.tx }

/-- `u` is `s`, with `m` bytes in the transmit buffer, after the padding and `tx_len <- L`
(44_pull_bus_scheduler R235 to R237). -/
structure PaddedFrom (s u : State) (m : Nat) : Prop where
  length : u.txLen.toNat = transferLength s.cfg m
  filler : ∀ k, m ≤ k → k < transferLength s.cfg m → Memory.read u.tx k = filler
  others : ∀ k, k < m ∨ transferLength s.cfg m ≤ k → Memory.read u.tx k = Memory.read s.tx k
  rest : u = { s with tx := u.tx, txLen := u.txLen }

/-- `s` after `PullQueue(tx[0 .. tx_len))` and `tip <- true` (44_pull_bus_scheduler R237). -/
def State.queuedTransfer (s : State) : State :=
  { s with
    tip := true
    pull := { s.pull with
      inFlight := s.pull.inFlight + 1
      queued := s.pull.queued ++ [Memory.readPrefix s.tx s.txLen.toNat] } }

/-- `t` is `s` after the push phase of a ROUTER_PASS that may read `k` more bytes, has read `used` and has these events so
far: it is the end of the command, or the command stands inside a `PushReadByte` that does not return (45_router R263,
R267; 60_exceptions R315). -/
def PushPhaseAnswers (k used : Nat) (armed : Bool) (events : List RouterEvent) (s t : State) : Prop :=
  ∃ r, pushPhase s.cfg k s.pp s.push = .ok r ∧
    (r.stuck = none → t = { s with pp := r.parser, push := r.transport }.respond (if r.found then .ok else .no)
      (if armed then 1 else 0) (BitVec.ofNat 16 (used + r.used))
      (u32le (image32 (events ++ r.events).length) ++ (events ++ r.events).flatMap RouterEvent.record)) ∧
    (∀ left, r.stuck = some left → t = { s with pp := r.parser, push := r.transport }.setProgress
      (.reading left (used + r.used) armed (events ++ r.events)))

/-- `t` is `s` after what PULL_POLL or ROUTER_PASS does once its scheduling pass is over: the end of the command, or
ROUTER_PASS inside a call of the push transport that does not return (44_pull_bus_scheduler R239; 45_router R263, R264,
R267; 60_exceptions R315). -/
def PassAnswers (pass : Pass) (frames : List Frame) (armed : Bool) (s t : State) : Prop :=
  match pass with
  | .poll => t = s.respond .ok (if armed then 1 else 0) 0
      (u32le (image32 frames.length) ++ frames.flatMap fun f => [f.id, lo8 f.len, hi8 f.len] ++ f.payload)
  | .router =>
    ((pullPhase s.cfg frames).2 = true → t = s.respond .ok (if armed then 1 else 0) 0
      (u32le (image32 (pullPhase s.cfg frames).1.length) ++
        (pullPhase s.cfg frames).1.flatMap RouterEvent.record)) ∧
    ((pullPhase s.cfg frames).2 = false → s.push.availableReturns = false →
      t = s.setProgress (.counting armed (pullPhase s.cfg frames).1)) ∧
    ((pullPhase s.cfg frames).2 = false → s.push.availableReturns = true →
      PushPhaseAnswers s.push.available 0 armed (pullPhase s.cfg frames).1 s t)

/-- The command of a scheduling pass (44_pull_bus_scheduler R239, 45_router R267). -/
def Pass.command : Pass → Instr
  | .poll => .pullPoll
  | .router => .routerPass

/-- A pass that is past its drain and has not armed (44_pull_bus_scheduler R233 to R237). -/
def Progress.arming : Progress → Bool
  | .filling _ _ _ => true
  | .queueing _ _ => true
  | .idle => false
  | .sending _ _ => false
  | .writing _ => false
  | .flushing => false
  | .polling _ => false
  | .counting _ _ => false
  | .reading _ _ _ _ => false

end Sys2Proof.Machine
end

