-- ==== Sys2Proof/Certificates/Slice0/Obligations.lean ====
section
/-! DEFINITION. The statements about the block, from the numbered rules of the spec. -/

open Sys2Proof Sys2Proof.Machine

/-! ### Encodings -/

/-- 30_encoding R101, R102, R113, R115: decoding the bytes of a command gives the command back, with every operand, and
leaves the bytes after it. -/
def Obligations.DecodeReadsBackEveryEncoding : Prop :=
  ∀ (i : Instr) (rest : List Byte), i.wellFormed = true → decode (encode i ++ rest) = .ok (i, rest)

/-- 30_encoding R113, R114, R118: a command has one encoding only: whatever bytes decode to it are its encoding. -/
def Obligations.EncodeWritesBackEveryDecoding : Prop :=
  ∀ (bytes rest : List Byte) (i : Instr), decode bytes = .ok (i, rest) →
    i.wellFormed = true ∧ bytes = encode i ++ rest

/-- 30_encoding R116: the example words of the spec decode to the commands they stand for. -/
def Obligations.ExampleWordsDecode : Prop :=
  decode [0x20, 0xA5, 0x00, 0x00] = .ok (.parseByte .pp 0xA5, []) ∧
  decode [0x20, 0x5A, 0x01, 0x00] = .ok (.parseByte .pl 0x5A, []) ∧
  decode [0x01, 0x07, 0xFF, 0xFF] = .ok (.crcUpdate 0xFFFF 0x07, []) ∧
  decode [0x31, 0x07, 0x04, 0x00, 0x01, 0x02, 0x03, 0x04] = .ok (.sendQueue 7 [1, 2, 3, 4], []) ∧
  decode [0x60, 0x00, 0x20, 0x00] = .ok (.rdReg .status, [])

/-- 30_encoding R114: a word with an unknown OP, with a reserved field that is not zero, or with an unknown register
number gets the ILLEGAL response and has no other effect; also where the next act is a turn, which the context named
takes.
Where command bytes stand, that the word is four bytes long, and whose step comes next are the model's choices
(notes/assumptions/8, 11, 25). -/
def Obligations.IllegalWordGetsIllegalResponse : Prop :=
  ∀ (s u : State) (op b8 h0 h1 : Byte) (rest : List Byte),
    paramsValid s.cfg = true → s.turnedTo u → u.port.progress = .idle → u.resetPending = false →
    u.port.stream = op :: b8 :: h0 :: h1 :: rest →
    (op ∉ [0x01, 0x02, 0x10, 0x11, 0x12, 0x20, 0x21, 0x30, 0x31, 0x40, 0x50, 0x60] ∨
      op ∈ [0x11, 0x12, 0x21, 0x40, 0x50, 0x60] ∧ b8 ≠ 0 ∨
      op ∈ [0x10, 0x11, 0x12, 0x40, 0x50] ∧ (h0 ≠ 0 ∨ h1 ≠ 0) ∨
      op ∈ [0x20, 0x21] ∧ (1 < h0.toNat ∨ h1 ≠ 0) ∨
      op = 0x60 ∧ (h0 ∉ [0x00, 0x01, 0x02, 0x03, 0x04, 0x05, 0x10, 0x11, 0x20, 0x21] ∨ h1 ≠ 0)) →
    step s = .next (u.setPort { u.port with
      stream := rest
      responses := u.port.responses ++ [{ status := .illegal, b8 := 0, h16 := 0, data := [] }] })

/-- 30_encoding R113, R114: every other word, with its data phase there in full, is a command. -/
def Obligations.EveryOtherWordIsACommand : Prop :=
  ∀ (op b8 h0 h1 : Byte) (rest : List Byte),
    op ∈ [0x01, 0x02, 0x10, 0x11, 0x12, 0x20, 0x21, 0x30, 0x31, 0x40, 0x50, 0x60] →
    (op ∈ [0x11, 0x12, 0x21, 0x40, 0x50, 0x60] → b8 = 0) →
    (op ∈ [0x10, 0x11, 0x12, 0x40, 0x50] → h0 = 0 ∧ h1 = 0) →
    (op ∈ [0x20, 0x21] → h0.toNat ≤ 1 ∧ h1 = 0) →
    (op = 0x60 → h0 ∈ [0x00, 0x01, 0x02, 0x03, 0x04, 0x05, 0x10, 0x11, 0x20, 0x21] ∧ h1 = 0) →
    (op ∈ [0x02, 0x30, 0x31] → h0.toNat + 256 * h1.toNat ≤ rest.length) →
    ∃ i later, decode (op :: b8 :: h0 :: h1 :: rest) = .ok (i, later)

/-! ### The sequencer -/

/-- 30_encoding R101, R102; 20_memory R76: when the bytes in front of the issuing context's stream decode to a command,
no command of it is in progress and no reset waits, a step takes these bytes from the stream and runs the command. With
a turn as the next act, the context named takes the step.
Where command bytes stand, whose step comes next and when a reset is taken are the model's choices
(notes/assumptions/8, 11, 12). -/
def Obligations.StepRunsTheDecodedCommand : Prop :=
  ∀ (s u : State) (i : Instr) (rest : List Byte), paramsValid s.cfg = true → s.turnedTo u →
    u.port.progress = .idle → u.resetPending = false → decode u.port.stream = .ok (i, rest) →
    step s = exec i (u.setPort { u.port with stream := rest })

/-- 30_encoding R102, 70_reset R331: while the command word or its data phase is not there in full, the block waits.
That the block waits for the rest, and whose step comes next, are the model's choices (notes/assumptions/8, 11). -/
def Obligations.StepWaitsForTheWholeCommand : Prop :=
  ∀ (s u : State), paramsValid s.cfg = true → s.turnedTo u → u.port.progress = .idle → u.resetPending = false →
    decode u.port.stream = .error .truncated → step s = .next u

/-- 20_memory R86, 10_state R30, 60_exceptions R314: what the outside does between two atomic steps changes no element
of the block but `rx`, and `rx` only where the pull transport receives: the end of a transfer of `n` bytes leaves them
in `rx[0 .. n)`, reports one completion more of `n` bytes, and has sent the first `n` bytes of the transaction; with
none in flight it changes nothing. A report set from outside is the one the block sees.
The list of outside acts, that a reset input is only latched, and what the master and a report write into `rx`, are the
model's choices (notes/assumptions/8, 12, 17, 18). -/
def Obligations.OutsideActsLeaveTheBlock : Prop :=
  ∀ (s t : State) (i : Input) (later : List Input), s.inputs = i :: later → (∀ x, i ≠ .turn x) → step s = .next t →
    (t.pp = s.pp ∧ t.pl = s.pl ∧ t.rb = s.rb ∧ t.tip = s.tip ∧ t.tx = s.tx ∧ t.txLen = s.txLen ∧
      t.cntSendReject = s.cntSendReject ∧ t.cntQueueDrop = s.cntQueueDrop ∧ t.fault = s.fault ∧
      t.faultReason = s.faultReason ∧ t.inputs = later) ∧
    ((∀ bytes, i ≠ .masterClock bytes) → (∀ c r f bytes, i ≠ .pullReport c r f bytes) → t.rx = s.rx) ∧
    (∀ bytes, i = .masterClock bytes → s.pull.inFlight = 0 → t = { s with inputs := later }) ∧
    (∀ bytes out n, i = .masterClock bytes → s.pull.inFlight ≠ 0 → s.rx.wf →
      out = s.pull.queued.getLast?.getD [] → out.length ≤ s.cfg.xferCap → n = min bytes.length out.length →
      t = { s with
        inputs := later
        rx := t.rx
        pull := { s.pull with
          completed := s.pull.completed + 1
          rxCount := n
          inFlight := s.pull.inFlight - 1
          sent := s.pull.sent ++ out.take n } } ∧
      Memory.readPrefix t.rx n = bytes.take n ∧ ∀ k, n ≤ k → Memory.read t.rx k = Memory.read s.rx k) ∧
    (∀ c r f bytes, i = .pullReport c r f bytes → s.rx.wf → bytes.length ≤ s.cfg.xferCap →
      t = { s with
        inputs := later
        rx := t.rx
        pull := { s.pull with completed := c, rxCount := r, inFlight := f } } ∧
      Memory.readPrefix t.rx bytes.length = bytes ∧
      ∀ k, bytes.length ≤ k → Memory.read t.rx k = Memory.read s.rx k)

/-- 70_reset R330, 10_state R55: a reset that waits is taken when no command is in progress; every element of R55 with
a reset value holds it then, and the parameters, the transports and the host's side stay. While a command of the other
context is in progress, the reset waits. So it is too where the next act is a turn.
That a reset input is latched and waits, and whose step comes next, are the model's choices
(notes/assumptions/8, 12). -/
def Obligations.ResetIsTakenBetweenCommands : Prop :=
  ∀ (s u : State), paramsValid s.cfg = true → s.turnedTo u → u.resetPending = true → u.port.progress = .idle →
    (u.portP.progress = .idle → u.portC.progress = .idle →
      ∃ t, step s = .next t ∧ t.pp.ps = .seek1 ∧ t.pl.ps = .seek1 ∧ t.pp.frmValid = false ∧ t.pl.frmValid = false ∧
        t.rb.head = 0 ∧ t.rb.tail = 0 ∧ t.tip = false ∧ t.cntSendReject = 0 ∧ t.cntQueueDrop = 0 ∧
        t.fault = false ∧ t.faultReason = 0 ∧ t.resetPending = false ∧ t.cfg = s.cfg ∧ t.push = s.push ∧
        t.pull = s.pull ∧ t.portP = s.portP ∧ t.portC = s.portC ∧ t.twoContexts = s.twoContexts ∧
        t.inputs = u.inputs) ∧
    ((u.portP.progress ≠ .idle ∨ u.portC.progress ≠ .idle) → step s = .next u)

/-- 10_state R55: the machine right after reset, for all parameters: the elements of R55 that have a reset value hold
it, and the invariant holds.
The other elements, which the invariant speaks of as well, hold the model's values (notes/assumptions/2, 4). -/
def Obligations.InitialStateIsGood : Prop :=
  State.reset.Good ∧
  ∀ (cfg : Params), paramsValid cfg = true →
    (State.initial cfg).Good ∧ (State.initial cfg).pp.ps = .seek1 ∧ (State.initial cfg).pl.ps = .seek1 ∧
    (State.initial cfg).pp.frmValid = false ∧ (State.initial cfg).pl.frmValid = false ∧
    (State.initial cfg).rb.head = 0 ∧ (State.initial cfg).rb.tail = 0 ∧ (State.initial cfg).tip = false ∧
    (State.initial cfg).cntSendReject = 0 ∧ (State.initial cfg).cntQueueDrop = 0 ∧
    (State.initial cfg).fault = false ∧ (State.initial cfg).faultReason = 0

/-- 42_frame_parser R198, 41_ring_buffer R169, 10_state R47 and R52: every step keeps the invariant: the arrays in
their canonical form and inside their sizes, the parsers' and the ring buffer's invariants, the armed length, the fault
reason, and what can be in progress.
The canonical form and what can be in progress are the model's (notes/assumptions/5, 9). -/
def Obligations.EveryStepKeepsTheInvariant : Prop :=
  ∀ (s t : State), s.Good → step s = .next t → t.Good

/-- 20_memory R71: "every index a rule computes lies inside its array"; 60_exceptions R305: nothing is fatal. From a
state with the invariant a step always gives a next state: no model fault, no refusal.
That reading a byte nothing has written completes is the model's choice (notes/assumptions/5). -/
def Obligations.GoodStateAlwaysSteps : Prop :=
  ∀ (s : State), s.Good → ∃ t, step s = .next t

/-- 60_exceptions R306: once a fault is recorded, no command and no step changes `fault` or `fault_reason`, but for a
reset that waits. -/
def Obligations.RecordedFaultStays : Prop :=
  (∀ (i : Instr) (s t : State), s.fault = true → exec i s = .next t →
    t.fault = true ∧ t.faultReason = s.faultReason) ∧
  (∀ (s t : State), s.fault = true → s.resetPending = false → step s = .next t →
    t.fault = true ∧ t.faultReason = s.faultReason)

/-- 46_control R282, R286; 70_reset R330: nothing changes the parameters.
That the number of contexts is fixed as well is the model's choice (notes/assumptions/10). -/
def Obligations.ParametersNeverChange : Prop :=
  ∀ (s t : State), step s = .next t → t.cfg = s.cfg ∧ t.twoContexts = s.twoContexts

/-- 30_encoding R104: a command that ends has appended exactly one response to its context's port; one that has not
ended has appended none; the other context's port is untouched. The same of every later step of a command in progress.
Which commands end later than they start is the model's choice (notes/assumptions/8, 9, 11, 13). -/
def Obligations.CommandGivesOneResponse : Prop :=
  (∀ (i : Instr) (s t : State), exec i s = .next t →
    (t.port.progress = .idle ∧ (∃ r, t.port.responses = s.port.responses ++ [r]) ∨
      t.port.progress ≠ .idle ∧ t.port.responses = s.port.responses) ∧
    t.port.stream = s.port.stream ∧ t.issuer = s.issuer ∧
    (∀ x, x ≠ s.issuer → t.portOf x = s.portOf x)) ∧
  (∀ (s u t : State), s.turnedTo u → u.port.progress ≠ .idle → step s = .next t →
    (t.port.progress = .idle ∧ (∃ r, t.port.responses = u.port.responses ++ [r]) ∨
      t.port.progress ≠ .idle ∧ t.port.responses = u.port.responses) ∧
    t.port.stream = u.port.stream ∧ t.issuer = u.issuer ∧
    (∀ x, x ≠ u.issuer → t.portOf x = u.portOf x))

/-! ### Checksum -/

/-- 40_checksum R140, R142: `crcUpdate` is eight turns of shift right and conditional XOR: with 0xA001 under AS_WRITTEN,
with 0x8408 under X25_NAMED.
The spec marks the loop and the second number as general knowledge (R140, R142, notes/assumptions/20). -/
def Obligations.CrcUpdateIsTheReflectedLoop : Prop :=
  ∀ (prof : CrcProfile) (crc : U16) (b : Byte), crcUpdate prof crc b =
    (fun c : U16 => if c.getLsbD 0 = true then (c >>> 1) ^^^ (if prof = .x25Named then 0x8408 else 0xA001)
      else c >>> 1)^[8] (crc ^^^ b.setWidth 16)

/-- 40_checksum R143: CRC_UPDATE answers OK with one checksum step and no final XOR; R144, R141, R142: CRC16 answers OK
with the checksum of the id and the data from the seed 0xFFFF, with the final XOR under X25_NAMED only. Neither changes
anything else.
The spec marks the numbers of X25_NAMED as general knowledge (notes/assumptions/20). -/
def Obligations.ChecksumCommandsAnswer : Prop :=
  (∀ (s : State) (crc : U16) (b : Byte), s.accepts (.crcUpdate crc b) →
    exec (.crcUpdate crc b) s = .next (s.respond .ok 0 (crcUpdate s.cfg.crcProfile crc b) [])) ∧
  (∀ (s : State) (id : Byte) (data : List Byte), s.accepts (.crc16 id data) →
    exec (.crc16 id data) s = .next (s.respond .ok 0
      ((id :: data).foldl (crcUpdate s.cfg.crcProfile) 0xFFFF ^^^
        (if s.cfg.crcProfile = .x25Named then 0xFFFF else 0)) []))

/-- 40_checksum R145: appending a byte is one more checksum step, the final XOR of X25_NAMED undone first; zero is a
fixed point.
The spec marks R145 as derived, and the X25_NAMED numbers as general knowledge (notes/assumptions/20). -/
def Obligations.CrcOfAppendedByte : Prop :=
  (∀ (id b : Byte) (data : List Byte),
    crc16 .asWritten id (data ++ [b]) = crcUpdate .asWritten (crc16 .asWritten id data) b) ∧
  (∀ (id b : Byte) (data : List Byte),
    crc16 .x25Named id (data ++ [b]) = crcUpdate .x25Named (crc16 .x25Named id data ^^^ 0xFFFF) b ^^^ 0xFFFF) ∧
  (∀ prof, crcUpdate prof 0 0 = 0)

/-- 95_test_vectors 1.3 (CRC rejection), 40_checksum R141: changing one byte of the id and the data always changes the
checksum, under both profiles.
The spec marks the numbers of X25_NAMED as general knowledge (notes/assumptions/20). -/
def Obligations.ChangedByteChangesTheChecksum : Prop :=
  ∀ (prof : CrcProfile),
    (∀ (id id' : Byte) (data : List Byte), id ≠ id' → crc16 prof id data ≠ crc16 prof id' data) ∧
    (∀ (id a b : Byte) (pre post : List Byte), a ≠ b →
      crc16 prof id (pre ++ a :: post) ≠ crc16 prof id (pre ++ b :: post))

/-! ### Ring buffer -/

/-- 41_ring_buffer R162, R165: RB_PUSH into a buffer that is not full writes the byte at slot `head mod RB_CAP`, no
other byte, advances `head` and answers OK; into a full one it changes nothing and answers NO. -/
def Obligations.RbPushAnswers : Prop :=
  ∀ (s : State) (b : Byte), s.accepts (.rbPush b) → s.rb.mem.wf →
    (s.rb.count s.cfg = s.cfg.rbCap → exec (.rbPush b) s = .next (s.respond .no 0 0 [])) ∧
    (s.rb.count s.cfg ≠ s.cfg.rbCap →
      ∃ mem, exec (.rbPush b) s = .next ({ s with rb :=
          { mem := mem, head := (s.rb.head + 1) % 2 ^ s.cfg.idxW, tail := s.rb.tail } }.respond .ok 0 0 []) ∧
        Memory.read mem (s.rb.head % s.cfg.rbCap) = b ∧
        ∀ k, k ≠ s.rb.head % s.cfg.rbCap → Memory.read mem k = Memory.read s.rb.mem k)

/-- 41_ring_buffer R163, R166: RB_POP of a buffer that is not empty answers OK with the byte at slot `tail mod RB_CAP`
and advances `tail`; of an empty one it changes nothing and answers NO. -/
def Obligations.RbPopAnswers : Prop :=
  ∀ (s : State), s.accepts .rbPop →
    (s.rb.head = s.rb.tail → exec .rbPop s = .next (s.respond .no 0 0 [])) ∧
    (s.rb.head ≠ s.rb.tail →
      exec .rbPop s = .next ({ s with rb := { s.rb with tail := (s.rb.tail + 1) % 2 ^ s.cfg.idxW } }.respond .ok
        (Memory.read s.rb.mem (s.rb.tail % s.cfg.rbCap)) 0 []))

/-- 41_ring_buffer R164, R167: RB_IS_EMPTY answers OK when `head = tail` and NO otherwise, and changes nothing. -/
def Obligations.RbIsEmptyAnswers : Prop :=
  ∀ (s : State), s.accepts .rbIsEmpty →
    exec .rbIsEmpty s = .next (s.respond (if s.rb.head = s.rb.tail then .ok else .no) 0 0 [])

/-- 41_ring_buffer R160, R168, R169: the ring buffer is a first-in first-out queue of at most RB_CAP bytes: it is never
over capacity, a push appends when there is room and changes nothing otherwise, a pop takes the oldest byte. -/
def Obligations.RingBufferIsABoundedQueue : Prop :=
  ∀ (cfg : Params) (rb : RingBuffer), paramsValid cfg = true → rb.Good cfg →
    (rb.contents cfg).length ≤ cfg.rbCap ∧
    (∀ b, (rb.contents cfg).length < cfg.rbCap →
      ∃ rb', rbPush cfg rb b = .ok (true, rb') ∧ rb'.Good cfg ∧ rb'.contents cfg = rb.contents cfg ++ [b]) ∧
    (∀ b, (rb.contents cfg).length = cfg.rbCap → rbPush cfg rb b = .ok (false, rb)) ∧
    (rb.contents cfg = [] → rbPop cfg rb = .ok (none, rb)) ∧
    (∀ b bs, rb.contents cfg = b :: bs →
      ∃ rb', rbPop cfg rb = .ok (some b, rb') ∧ rb'.Good cfg ∧ rb'.contents cfg = bs)

/-! ### Frame parser -/

/-- 42_frame_parser R182, R183: the two marker states. -/
def Obligations.ParserMarkerStates : Prop :=
  ∀ (cfg : Params) (P : Parser) (b : Byte),
    (P.ps = .seek1 →
      P.processByte cfg b = .ok ({ P with ps := if b = 0xA5 then .seek2 else .seek1 }, false)) ∧
    (P.ps = .seek2 →
      P.processByte cfg b = .ok ({ P with ps :=
        if b = 0x5A then .lenLo else if b = 0xA5 ∧ cfg.seek2OnA5 = .hold then .seek2 else .seek1 }, false))

/-- 42_frame_parser R184, R185: the two length states, with the length check `1 <= LEN <= MAX_PAYLOAD + 1`. In state
LEN_HI the low byte of LEN is all that `len` holds in a run; other values are left out (notes/assumptions/23). -/
def Obligations.ParserLengthStates : Prop :=
  ∀ (cfg : Params) (P : Parser) (b : Byte),
    (P.ps = .lenLo → ∃ Q, P.processByte cfg b = .ok (Q, false) ∧ Q.ps = .lenHi ∧ Q.len.toNat = b.toNat ∧
      Q = { P with len := Q.len, ps := Q.ps }) ∧
    (P.ps = .lenHi → P.len.toNat < 256 → ∃ Q, P.processByte cfg b = .ok (Q, false) ∧
      Q.len.toNat = P.len.toNat + 256 * b.toNat ∧
      Q.ps = (if 1 ≤ Q.len.toNat ∧ Q.len.toNat ≤ cfg.maxPayload + 1 then .id else .seek1) ∧
      Q = { P with len := Q.len, ps := Q.ps })

/-- 42_frame_parser R186, R187: the id state and the payload state; the payload byte goes to `acc[idx]` and no other
byte of `acc` changes. -/
def Obligations.ParserIdAndPayloadStates : Prop :=
  ∀ (cfg : Params) (P : Parser) (b : Byte), paramsValid cfg = true → P.Good cfg →
    (P.ps = .id → P.processByte cfg b =
      .ok ({ P with id := b, idx := 0, ps := if P.len = 1 then .crcLo else .payload }, false)) ∧
    (P.ps = .payload → ∃ Q, P.processByte cfg b = .ok (Q, false) ∧ Q.idx.toNat = P.idx.toNat + 1 ∧
      Q.ps = (if P.idx.toNat + 2 = P.len.toNat then .crcLo else .payload) ∧
      Memory.read Q.acc P.idx.toNat = b ∧
      (∀ k, k ≠ P.idx.toNat → Memory.read Q.acc k = Memory.read P.acc k) ∧
      Q = { P with acc := Q.acc, idx := Q.idx, ps := Q.ps })

/-- 42_frame_parser R188, R189: the check states: on a match the frame is published and the byte reports it, on a
mismatch nothing is published; either way the parser is in SEEK1. -/
def Obligations.ParserCheckStates : Prop :=
  ∀ (cfg : Params) (P : Parser) (b : Byte), paramsValid cfg = true → P.Good cfg →
    (P.ps = .crcLo → P.processByte cfg b = .ok ({ P with crclo := b, ps := .crcHi }, false)) ∧
    (P.ps = .crcHi →
      (b.toNat * 256 + P.crclo.toNat =
          (crc16 cfg.crcProfile P.id (Memory.readPrefix P.acc (P.len.toNat - 1))).toNat →
        ∃ Q, P.processByte cfg b = .ok (Q, true) ∧ Q.ps = .seek1 ∧ Q.frmValid = true ∧ Q.frmId = P.id ∧
          Q.frmLen.toNat = P.len.toNat - 1 ∧
          Memory.readPrefix Q.frmPayload (P.len.toNat - 1) = Memory.readPrefix P.acc (P.len.toNat - 1) ∧
          Q = { P with ps := Q.ps, frmValid := Q.frmValid, frmId := Q.frmId, frmLen := Q.frmLen,
                       frmPayload := Q.frmPayload }) ∧
      (b.toNat * 256 + P.crclo.toNat ≠
          (crc16 cfg.crcProfile P.id (Memory.readPrefix P.acc (P.len.toNat - 1))).toNat →
        P.processByte cfg b = .ok ({ P with ps := .seek1 }, false)))

/-- 42_frame_parser R195: PARSE_BYTE feeds one byte to the selected parser and answers OK exactly when the byte
completed a frame; the other parser and everything else stay. -/
def Obligations.ParseByteAnswers : Prop :=
  ∀ (s : State) (b : Byte),
    (s.accepts (.parseByte .pp b) → s.pp.Good s.cfg →
      ∃ Q done, s.pp.processByte s.cfg b = .ok (Q, done) ∧ exec (.parseByte .pp b) s =
        .next ({ s with pp := Q }.respond (if done then .ok else .no) 0 0 [])) ∧
    (s.accepts (.parseByte .pl b) → s.pl.Good s.cfg →
      ∃ Q done, s.pl.processByte s.cfg b = .ok (Q, done) ∧ exec (.parseByte .pl b) s =
        .next ({ s with pl := Q }.respond (if done then .ok else .no) 0 0 []))

/-- 42_frame_parser R196, 30_encoding R111: GET_FRAME answers OK with the record of the published frame, NO before the
first one, and changes nothing. -/
def Obligations.GetFrameAnswers : Prop :=
  ∀ (s : State) (sel : ParserSel), s.accepts (.getFrame sel) → (s.parser sel).Good s.cfg →
    ((s.parser sel).frmValid = false → exec (.getFrame sel) s = .next (s.respond .no 0 0 [])) ∧
    ((s.parser sel).frmValid = true → exec (.getFrame sel) s = .next (s.respond .ok 0 0
      ([(s.parser sel).frmId, lo8 (s.parser sel).frmLen, hi8 (s.parser sel).frmLen] ++
        Memory.readPrefix (s.parser sel).frmPayload (s.parser sel).frmLen.toNat)))

/-- 42_frame_parser R190, R197: a byte is reported only from CRC_HI, and only a reported byte changes the published
frame; R191: the accumulation buffer is written in state PAYLOAD only, so a rejected length writes nothing. -/
def Obligations.OnlyCompletionPublishesAndOnlyPayloadAccumulates : Prop :=
  ∀ (cfg : Params) (P Q : Parser) (b : Byte) (done : Bool), P.processByte cfg b = .ok (Q, done) →
    (done = true → P.ps = .crcHi ∧ Q.ps = .seek1 ∧ Q.frmValid = true) ∧
    (done = false → Q.frmValid = P.frmValid ∧ Q.frmId = P.frmId ∧ Q.frmLen = P.frmLen ∧
      Q.frmPayload = P.frmPayload) ∧
    (P.ps ≠ .payload → Q.acc = P.acc)

/-- 42_frame_parser R180, R181, R198: every byte takes a parser with the invariant to a parser with the invariant. -/
def Obligations.EveryByteKeepsTheParserInvariant : Prop :=
  ∀ (cfg : Params) (P : Parser) (b : Byte), paramsValid cfg = true → P.Good cfg →
    ∃ Q done, P.processByte cfg b = .ok (Q, done) ∧ Q.Good cfg

/-- 42_frame_parser R193: after the length check exactly LEN + 2 more bytes, whatever their values, are taken before
the parser is in SEEK1 again. -/
def Obligations.AcceptedLengthFixesTheByteCount : Prop :=
  ∀ (cfg : Params) (P : Parser) (bytes : List Byte), paramsValid cfg = true → P.Good cfg → P.ps = .id →
    bytes.length ≤ P.len.toNat + 2 →
    ∃ Q frames, P.feed cfg bytes = .ok (Q, frames) ∧ (Q.ps = .seek1 ↔ bytes.length = P.len.toNat + 2)

/-! ### Frame encoder -/

/-- 43_frame_encoder R210, 30_encoding R106: the wire layout of a frame. -/
def Obligations.EncodedFrameLayout : Prop :=
  ∀ (prof : CrcProfile) (id : Byte) (payload : List Byte), 1 ≤ payload.length → payload.length ≤ 65534 →
    ∃ l0 l1 c0 c1 : Byte, encodeFrame prof id payload = [0xA5, 0x5A, l0, l1, id] ++ payload ++ [c0, c1] ∧
      l0.toNat + 256 * l1.toNat = payload.length + 1 ∧
      c0.toNat + 256 * c1.toNat = (crc16 prof id payload).toNat

/-- 43_frame_encoder R217: round trip: the bytes of an encoded frame, fed to a parser in SEEK1, complete exactly one
frame, that one, with the last byte, and leave the parser in SEEK1.
The spec marks R217 as derived from its rules. -/
def Obligations.EncodedFrameParsesBack : Prop :=
  ∀ (cfg : Params) (P : Parser) (id : Byte) (payload : List Byte), paramsValid cfg = true → P.Good cfg →
    P.ps = .seek1 → 1 ≤ payload.length → payload.length ≤ cfg.maxPayload →
    (∃ Q, P.feed cfg (encodeFrame cfg.crcProfile id payload).dropLast = .ok (Q, [])) ∧
    (∃ Q f, P.feed cfg (encodeFrame cfg.crcProfile id payload) = .ok (Q, [f]) ∧ Q.ps = .seek1 ∧
      f.id = id ∧ f.len.toNat = payload.length ∧ f.payload = payload ∧
      Q.frmValid = true ∧ Q.frame cfg = .ok f)

/-- 95_test_vectors 1.3 (CRC rejection), 42_frame_parser R189, R301: an encoded frame with one byte of its id, payload
or checksum changed completes no frame, leaves the published frame, and leaves the parser in SEEK1. -/
def Obligations.DamagedFrameIsRejected : Prop :=
  ∀ (cfg : Params) (P : Parser) (id x : Byte) (payload : List Byte) (j : Nat), paramsValid cfg = true → P.Good cfg →
    P.ps = .seek1 → 1 ≤ payload.length → payload.length ≤ cfg.maxPayload →
    4 ≤ j → j < payload.length + 7 → (encodeFrame cfg.crcProfile id payload)[j]? ≠ some x →
    ∃ Q, P.feed cfg ((encodeFrame cfg.crcProfile id payload).set j x) = .ok (Q, []) ∧ Q.ps = .seek1 ∧
      Q.frmValid = P.frmValid ∧ Q.frmId = P.frmId ∧ Q.frmLen = P.frmLen ∧ Q.frmPayload = P.frmPayload

/-- 43_frame_encoder R211: a send of no payload byte, or of more than MAX_PAYLOAD, answers DROPPED, counts one
rejection modulo 2^32, and writes no byte anywhere. -/
def Obligations.RejectedSendIsDropped : Prop :=
  ∀ (s : State) (id : Byte) (payload : List Byte) (i : Instr), i = .sendPush id payload ∨ i = .sendQueue id payload →
    s.accepts i → payload.length = 0 ∨ payload.length > s.cfg.maxPayload →
    exec i s = .next ({ s with cntSendReject := s.cntSendReject + 1 }.respond .dropped 0 0 [])

/-- 43_frame_encoder R212, 60_exceptions R313: an accepted SEND_PUSH whose `PushWrite` and `PushFlush` return has sent
every pending byte and then the frame, and answers OK; nothing else changes. -/
def Obligations.SendPushAnswers : Prop :=
  ∀ (s : State) (id : Byte) (payload : List Byte), s.accepts (.sendPush id payload) →
    1 ≤ payload.length → payload.length ≤ s.cfg.maxPayload →
    s.push.writeReturns = true → s.push.flushReturns = true →
    exec (.sendPush id payload) s = .next ({ s with push := { s.push with
      txPending := []
      txSent := s.push.txSent ++ s.push.txPending ++ encodeFrame s.cfg.crcProfile id payload } }.respond .ok 0 0 [])

/-- 60_exceptions R304, R315: a call of the push transport that does not return leaves its command in progress, with
what the command did before the call: no response is given, the context's steps do nothing until the call returns, and
then the command goes on. The calls are the `PushWrite` and the `PushFlush` of SEND_PUSH and the `PushAvailable` and the
`PushReadByte` of ROUTER_PASS.
How a call that does not return shows is the model's choice (notes/assumptions/8, 13). -/
def Obligations.PushCallThatDoesNotReturnHoldsItsCommand : Prop :=
  (∀ (s : State) (id : Byte) (payload : List Byte), s.accepts (.sendPush id payload) →
    1 ≤ payload.length → payload.length ≤ s.cfg.maxPayload →
    (s.push.writeReturns = false → exec (.sendPush id payload) s =
      .next (s.setPort { s.port with progress := .writing (encodeFrame s.cfg.crcProfile id payload) })) ∧
    (s.push.writeReturns = true → s.push.flushReturns = false → exec (.sendPush id payload) s =
      .next ({ s with push := { s.push with
        txPending := s.push.txPending ++ encodeFrame s.cfg.crcProfile id payload } }.setPort
          { s.port with progress := .flushing }))) ∧
  (∀ (s u : State), paramsValid s.cfg = true → s.turnedTo u →
    (∀ frame, u.port.progress = .writing frame →
      (u.push.writeReturns = false → step s = .next u) ∧
      (u.push.writeReturns = true → u.push.flushReturns = false →
        step s = .next ({ u with push := { u.push with txPending := u.push.txPending ++ frame } }.setPort
          { u.port with progress := .flushing })) ∧
      (u.push.writeReturns = true → u.push.flushReturns = true →
        step s = .next ({ u with push := { u.push with
          txPending := []
          txSent := u.push.txSent ++ u.push.txPending ++ frame } }.respond .ok 0 0 []))) ∧
    (u.port.progress = .flushing →
      (u.push.flushReturns = false → step s = .next u) ∧
      (u.push.flushReturns = true → step s = .next ({ u with push := { u.push with
        txPending := []
        txSent := u.push.txSent ++ u.push.txPending } }.respond .ok 0 0 []))) ∧
    (∀ armed events, u.port.progress = .counting armed events →
      (u.push.availableReturns = false → step s = .next u) ∧
      (u.push.availableReturns = true → u.pp.Good u.cfg →
        ∃ t, step s = .next t ∧ PushPhaseAnswers u.push.available 0 armed events u t)) ∧
    (∀ k used armed events, u.port.progress = .reading k used armed events →
      (u.push.readsLeft = some 0 → 0 < k → step s = .next u) ∧
      (u.pp.Good u.cfg → ∃ t, step s = .next t ∧ PushPhaseAnswers k used armed events u t)))

/-- 60_exceptions R304, R315: a call of the pull transport that does not return leaves PULL_POLL or ROUTER_PASS in
progress, with what the pass did before the call: nothing before `PullPoll`; checking, draining, filling and padding
before `PullQueue`. No response is given, the context's steps do nothing until the call returns, and then the pass goes
on: after `PullPoll` as the command would, issued then.
How a call that does not return shows is the model's choice, and so is that one context's command is one step
(notes/assumptions/8, 10, 13). -/
def Obligations.PullCallThatDoesNotReturnHoldsItsCommand : Prop :=
  (∀ (s : State) (pass : Pass), s.accepts pass.command → s.pull.pollReturns = false →
    exec pass.command s = .next (s.setPort { s.port with progress := .polling pass })) ∧
  (∀ (s u : State) (pass : Pass), s.turnedTo u → u.port.progress = .polling pass → u.accepts pass.command →
    (u.pull.pollReturns = false → step s = .next u) ∧ step s = exec pass.command u) ∧
  (∀ (s : State) (pass : Pass), s.Good → s.twoContexts = false → s.completionSound → s.pull.inFlight = 0 →
    (s.pull.completed = 0 → s.tip = false) → s.pull.pollReturns = true → s.pull.queueReturns = false →
    ∃ u frames, ArmedFrom s u frames ∧ exec pass.command s = .next
      ({ u with tip := false, pull := { s.pull with completed := 0 } }.setPort
        { s.port with progress := .queueing pass frames })) ∧
  (∀ (s u : State) (pass : Pass) (frames : List Frame), s.Good → s.turnedTo u →
    u.port.progress = .queueing pass frames →
    (u.pull.queueReturns = false → step s = .next u) ∧
    (u.pull.queueReturns = true →
      ∃ t, step s = .next t ∧ PassAnswers pass frames true u.queuedTransfer t))

/-- 43_frame_encoder R213, R216: with one context, an accepted SEND_QUEUE enqueues the first bytes of the frame, as many
as are free, counts the others as dropped modulo 2^32, and answers OK with the number enqueued in RH16 (where it fits
16 bits); no other slot of the ring, and nothing else, changes.
That one context's command is one step, and RH16 of 2^16 bytes or more, are the model's choices
(notes/assumptions/10, 14). -/
def Obligations.SendQueueEnqueuesWhatFits : Prop :=
  ∀ (s : State) (id : Byte) (payload : List Byte), s.Good → s.twoContexts = false →
    1 ≤ payload.length → payload.length ≤ s.cfg.maxPayload →
    ∃ (m : Nat) (rb : RingBuffer) (h : U16),
      m = min (payload.length + 7) (s.cfg.rbCap - s.rb.count s.cfg) ∧
      RingBuffer.Pushed s.cfg s.rb rb ((encodeFrame s.cfg.crcProfile id payload).take m) ∧
      (m < 65536 → h = BitVec.ofNat 16 m) ∧
      exec (.sendQueue id payload) s = .next ({ s with
        rb := rb
        cntQueueDrop := s.cntQueueDrop + BitVec.ofNat 32 (payload.length + 7 - m) }.respond .ok 0 h [])

/-- 20_memory R76, 43_frame_encoder R213, R216: with two contexts SEND_QUEUE goes in atomic steps of one push each, the
first being the step that starts it. A step with room pushes the next byte; one without room drops that byte and, under
STOP, every byte left; with no byte left to attempt the response is given. If context P takes the steps that follow
without interruption, the command ends as with one context.
That the context named last goes on, where the ring access stands in a step, and RH16 of 2^16 bytes or more are the
model's choices (notes/assumptions/8, 9, 14). -/
def Obligations.SendQueueInStepsEnqueuesTheSame : Prop :=
  (∀ (s : State) (id : Byte) (payload : List Byte), s.Good → s.twoContexts = true → s.turn = .p → s.inputs = [] →
    1 ≤ payload.length → payload.length ≤ s.cfg.maxPayload →
    (s.rb.count s.cfg < s.cfg.rbCap → ∃ rb, RingBuffer.Pushed s.cfg s.rb rb [0xA5] ∧
      exec (.sendQueue id payload) s = .next { s with
        rb := rb
        portP := { s.portP with progress := .sending (encodeFrame s.cfg.crcProfile id payload).tail 1 } }) ∧
    ∃ (n m : Nat) (t : State) (rb : RingBuffer) (h : U16), n ≤ payload.length + 6 ∧
      m = min (payload.length + 7) (s.cfg.rbCap - s.rb.count s.cfg) ∧
      RingBuffer.Pushed s.cfg s.rb rb ((encodeFrame s.cfg.crcProfile id payload).take m) ∧
      (m < 65536 → h = BitVec.ofNat 16 m) ∧
      exec (.sendQueue id payload) s = .next t ∧
      Sys2Proof.core.run n t = .next ({ s with
        rb := rb
        cntQueueDrop := s.cntQueueDrop + BitVec.ofNat 32 (payload.length + 7 - m) }.respond .ok 0 h [])) ∧
  (∀ (s u : State) (b : Byte) (rest : List Byte) (k : Nat), s.Good → s.turnedTo u →
    u.port.progress = .sending (b :: rest) k →
    ∃ h h' : U16, (k < 65536 → h = BitVec.ofNat 16 k) ∧ (k + 1 < 65536 → h' = BitVec.ofNat 16 (k + 1)) ∧
    (u.rb.count u.cfg < u.cfg.rbCap → ∃ rb, RingBuffer.Pushed u.cfg u.rb rb [b] ∧
      (rest ≠ [] → step s = .next ({ u with rb := rb }.setProgress (.sending rest (k + 1)))) ∧
      (rest = [] → step s = .next ({ u with rb := rb }.respond .ok 0 h' []))) ∧
    (u.rb.count u.cfg = u.cfg.rbCap → u.cfg.queueOnFull = .stop ∨ rest = [] →
      step s = .next ({ u with
        cntQueueDrop := u.cntQueueDrop + BitVec.ofNat 32 (rest.length + 1) }.respond .ok 0 h [])) ∧
    (u.rb.count u.cfg = u.cfg.rbCap → u.cfg.queueOnFull = .goOn → rest ≠ [] →
      step s = .next ({ u with cntQueueDrop := u.cntQueueDrop + 1 }.setProgress (.sending rest k))))

/-- 43_frame_encoder R216, 00_scope R14: with one context QUEUE_ON_FULL makes no difference to SEND_QUEUE.
That one context's command is one step is the model's choice (notes/assumptions/10). -/
def Obligations.StopAndContinueAgreeWithOneContext : Prop :=
  ∀ (s t : State) (id : Byte) (payload : List Byte), s.twoContexts = false → s.cfg.queueOnFull = .stop →
    exec (.sendQueue id payload) s = .next t →
    exec (.sendQueue id payload) { s with cfg := { s.cfg with queueOnFull := .goOn } } =
      .next { t with cfg := { s.cfg with queueOnFull := .goOn } }

/-! ### Pull-bus scheduler -/

/-- 44_pull_bus_scheduler R231, 60_exceptions R306, R307: PULL_POLL and ROUTER_PASS fault on a report that breaks a
duty, with the first reason that applies, and change nothing else but the transport's completed count. -/
def Obligations.BrokenReportFaults : Prop :=
  ∀ (s : State) (i : Instr), i = .pullPoll ∨ i = .routerPass → s.accepts i → s.pull.pollReturns = true →
    (s.pull.completed > 1 → exec i s =
      .next ({ s with pull := { s.pull with completed := 0 } }.raise .multipleCompletions)) ∧
    (s.pull.completed = 1 → s.tip = false → exec i s =
      .next ({ s with pull := { s.pull with completed := 0 } }.raise .completionWithoutArm)) ∧
    (s.pull.completed = 1 → s.tip = true → s.pull.rxCount > s.txLen.toNat → exec i s =
      .next ({ s with pull := { s.pull with completed := 0 } }.raise .rxOverrun)) ∧
    (s.completionSound → s.pull.inFlight > 1 → exec i s =
      .next ({ s with pull := { s.pull with completed := 0 } }.raise .inFlightOverflow)) ∧
    (s.completionSound → s.pull.inFlight = 1 → s.tip = false ∨ s.pull.completed = 1 → exec i s =
      .next ({ s with pull := { s.pull with completed := 0 } }.raise .inFlightWithoutArm)) ∧
    (s.pull.inFlight = 0 → s.tip = true → s.pull.completed = 0 → exec i s =
      .next (s.raise .lostTransaction))

/-- 44_pull_bus_scheduler R233, R239: while the armed transaction is in flight PULL_POLL drains nothing, arms nothing
and answers OK with no frame. -/
def Obligations.PullPollInFlightAnswers : Prop :=
  ∀ (s : State), s.accepts .pullPoll → s.pull.pollReturns = true → s.tip = true → s.pull.completed = 0 →
    s.pull.inFlight = 1 → exec .pullPoll s = .next (s.respond .ok 0 0 [0, 0, 0, 0])

/-- 44_pull_bus_scheduler R230, R232 to R237, R239: with one context and no transaction in flight PULL_POLL drains the
completed transaction, arms the next transfer and answers OK with the frames drained.
That one context's command is one step is the model's choice (notes/assumptions/10). -/
def Obligations.PullPollArmsTheNextTransfer : Prop :=
  ∀ (s : State), s.Good → s.twoContexts = false → s.pull.Returns → s.completionSound → s.pull.inFlight = 0 →
    (s.pull.completed = 0 → s.tip = false) →
    ∃ u frames, ArmedFrom s u frames ∧ exec .pullPoll s = .next (u.respond .ok 1 0
      (u32le (image32 frames.length) ++ frames.flatMap fun f => [f.id, lo8 f.len, hi8 f.len] ++ f.payload))

/-- 20_memory R76, 44_pull_bus_scheduler R230 to R237: with two contexts and no transaction in flight the step that
starts PULL_POLL or ROUTER_PASS checks, drains and makes the first pop; if context C takes the steps that follow without
interruption, then after fewer than XFER_CAP of them the pass has armed as with one context, and the command has gone on
with that.
That the context named last goes on, and where the ring access stands in a step, are the model's choices
(notes/assumptions/8, 9). -/
def Obligations.PassRunsInStepsWithTwoContexts : Prop :=
  ∀ (s : State) (pass : Pass), s.Good → s.twoContexts = true → s.turn = .c → s.inputs = [] → s.pull.Returns →
    s.completionSound → s.pull.inFlight = 0 → (s.pull.completed = 0 → s.tip = false) →
    (s.rb.contents s.cfg ≠ [] → 1 < s.cfg.xferCap →
      ∃ P frames u, s.pl.feed s.cfg s.received = .ok (P, frames) ∧
        PoppedInto { s with pl := P, tip := false, pull := { s.pull with completed := 0 } } u 0 ∧
        exec pass.command s = .next { u with portC := { s.portC with progress := .filling pass frames 1 } }) ∧
    ∃ n start u frames t, n < s.cfg.xferCap ∧ exec pass.command s = .next start ∧
      Sys2Proof.core.run n start = .next t ∧ ArmedFrom s u frames ∧ PassAnswers pass frames true u t

/-- 20_memory R76, 44_pull_bus_scheduler R234 to R237, R239; 45_router R267: one step of a pass that is filling makes one
pop: the oldest byte goes to `tx[m]`, and the pass goes on filling while there are more bytes and more room. Where the
ring is empty, or that byte fills the buffer, the same step pads, queues the transaction, arms, and goes on with the
command; a `PullQueue` that does not return leaves it there.
Where the ring access stands in a step, and how a call that does not return shows, are the model's choices
(notes/assumptions/8, 9, 13). -/
def Obligations.FillingStepPopsOrArms : Prop :=
  ∀ (s u : State) (pass : Pass) (frames : List Frame) (m : Nat), s.Good → s.turnedTo u →
    u.port.progress = .filling pass frames m →
    (u.rb.contents u.cfg ≠ [] → m + 1 < u.cfg.xferCap →
      ∃ v, PoppedInto u v m ∧ step s = .next (v.setProgress (.filling pass frames (m + 1)))) ∧
    (u.rb.contents u.cfg = [] ∨ m + 1 = u.cfg.xferCap →
      ∃ v w, PoppedInto u v m ∧ PaddedFrom v w (m + min 1 (u.rb.contents u.cfg).length) ∧
        (u.pull.queueReturns = false → step s = .next (w.setProgress (.queueing pass frames))) ∧
        (u.pull.queueReturns = true →
          ∃ t, step s = .next t ∧ PassAnswers pass frames true w.queuedTransfer t))

/-- 44_pull_bus_scheduler R238: no command queues a transaction, or begins to arm one, while one is reported in flight,
and none queues more than one. The same of every step: a pass that is past its report goes on arming what it began.
Which commands take several steps is the model's choice (notes/assumptions/8, 9, 13). -/
def Obligations.SingleFlight : Prop :=
  (∀ (i : Instr) (s t : State), exec i s = .next t →
    (s.pull.inFlight ≠ 0 → t.pull.queued = s.pull.queued ∧ t.port.progress.arming = false) ∧
    (t.pull.queued = s.pull.queued ∨ ∃ bytes, t.pull.queued = s.pull.queued ++ [bytes])) ∧
  (∀ (s t : State), step s = .next t →
    (∀ u, s.turnedTo u → u.pull.inFlight ≠ 0 → u.port.progress.arming = false →
      t.pull.queued = u.pull.queued ∧ t.port.progress.arming = false) ∧
    (t.pull.queued = s.pull.queued ∨ ∃ bytes, t.pull.queued = s.pull.queued ++ [bytes]))

/-- 44_pull_bus_scheduler R235: the transfer length is the least positive multiple of ALIGN that holds the bytes, and
fits XFER_CAP. -/
def Obligations.TransferLengthIsTheLeastMultiple : Prop :=
  ∀ (cfg : Params) (m : Nat), paramsValid cfg = true → m ≤ cfg.xferCap →
    transferLength cfg m % cfg.align = 0 ∧ 0 < transferLength cfg m ∧ m ≤ transferLength cfg m ∧
    transferLength cfg m ≤ cfg.xferCap ∧
    (∀ k, 0 < k → k % cfg.align = 0 → m ≤ k → transferLength cfg m ≤ k)

/-- 44_pull_bus_scheduler R240, 20_memory R86: while the armed transaction has not completed no command, and no step of
a context but one that takes a reset, changes `tx`, `tx_len`, `rx` or `tip`.
Which commands take several steps is the model's choice (notes/assumptions/8, 9, 13). -/
def Obligations.BuffersStayWhileInFlight : Prop :=
  (∀ (i : Instr) (s t : State), s.tip = true → s.pull.completed ≠ 1 → exec i s = .next t →
    t.tx = s.tx ∧ t.txLen = s.txLen ∧ t.rx = s.rx ∧ t.tip = true) ∧
  (∀ (s u t : State), s.Good → s.turnedTo u → u.resetPending = false → u.tip = true → u.pull.completed ≠ 1 →
    step s = .next t → t.tx = u.tx ∧ t.txLen = u.txLen ∧ t.rx = u.rx ∧ t.tip = true)

/-! ### Dual-bus router -/

/-- 45_router R261, R263, R264, R269: the pull phase dispatches the frames before the first qualifying Change, in order,
and ends with that Change; the frames after it give no event. -/
def Obligations.PullPhaseEndsAtTheFirstChange : Prop :=
  ∀ (cfg : Params) (pre : List Frame),
    (∀ f ∈ pre, f.id = cfg.changeId → decodeChange cfg f.payload = none) →
    pullPhase cfg pre = (pre.map .dispatchPull, false) ∧
    ∀ (f : Frame) (ch : Change) (post : List Frame), f.id = cfg.changeId → decodeChange cfg f.payload = some ch →
      pullPhase cfg (pre ++ f :: post) = (pre.map .dispatchPull ++ [.change f.id ch], true)

/-- 45_router R263, R265, R266, R269: the push phase reads, in arrival order, a prefix of the received bytes, at most
`k`, through the parser; without a Change it reads `k` bytes or all there are, and each frame completed is dispatched;
with a Change it ends at the byte that completes it, in SEEK1, and the Change is the last event. Where a `PushReadByte`
does not return it stands there, having read the bytes before, with the events of these.
How a call that does not return shows is the model's choice (notes/assumptions/13). -/
def Obligations.PushPhaseReadsABoundedPrefix : Prop :=
  ∀ (cfg : Params) (k : Nat) (P : Parser) (p : PushTransport) (r : PushResult), pushPhase cfg k P p = .ok r →
    r.used ≤ k ∧ r.used ≤ p.rxq.length ∧
    r.transport = { p with rxq := p.rxq.drop r.used, readsLeft := p.readsLeft.map (· - r.used) } ∧
    (∀ n, p.readsLeft = some n → r.used ≤ n) ∧
    (∀ left, r.stuck = some left → r.found = false ∧ 0 < left ∧ left + r.used = k ∧ p.readsLeft = some r.used) ∧
    ∃ frames, P.feed cfg (p.rxq.take r.used) = .ok (r.parser, frames) ∧
      (r.found = false → (r.stuck = none → r.used = min k p.rxq.length) ∧ r.events = frames.map .dispatchPush ∧
        ∀ f ∈ frames, f.id = cfg.changeId → decodeChange cfg f.payload = none) ∧
      (r.found = true → r.parser.ps = .seek1 ∧ ∃ pre f ch, frames = pre ++ [f] ∧ f.id = cfg.changeId ∧
        decodeChange cfg f.payload = some ch ∧ r.events = pre.map .dispatchPush ++ [.change f.id ch] ∧
        ∀ g ∈ pre, g.id = cfg.changeId → decodeChange cfg g.payload = none)

/-- 45_router R263, R265, R267: while the armed transaction is in flight ROUTER_PASS reads the push bus only: it answers
OK or NO with the events of the push phase, RB8 = 0, and RH16 the number of bytes read. It ends where the calls of the
push transport return; otherwise it stands inside the one that does not (60_exceptions R315, notes/assumptions/13). -/
def Obligations.RouterPassInFlightAnswers : Prop :=
  ∀ (s : State), s.accepts .routerPass → s.pp.Good s.cfg → s.pull.pollReturns = true → s.tip = true →
    s.pull.completed = 0 → s.pull.inFlight = 1 →
    (s.push.availableReturns = false →
      exec .routerPass s = .next (s.setPort { s.port with progress := .counting false [] })) ∧
    (s.push.availableReturns = true →
      ∃ r, pushPhase s.cfg s.push.available s.pp s.push = .ok r ∧
        (s.push.readsLeft = none ∨ r.stuck = none →
          exec .routerPass s = .next ({ s with pp := r.parser, push := r.transport }.respond
            (if r.found then .ok else .no) 0 (BitVec.ofNat 16 r.used)
            (u32le (image32 r.events.length) ++ r.events.flatMap RouterEvent.record))) ∧
        (∀ left, r.stuck = some left →
          exec .routerPass s = .next ({ s with pp := r.parser, push := r.transport }.setPort
            { s.port with progress := .reading left r.used false r.events })))

/-- 45_router R260, R263, R264, R266, R267: with one context and no transaction in flight ROUTER_PASS drains and arms as
PULL_POLL does; a Change among the pull frames is answered at once, with RH16 = 0 and the push bus and `PP` untouched;
otherwise the push phase follows. It ends where the calls of the push transport return.
That one context's command is one step, and how a call that does not return shows, are the model's choices
(notes/assumptions/10, 13). -/
def Obligations.RouterPassServesThePullBusFirst : Prop :=
  ∀ (s : State), s.Good → s.twoContexts = false → s.pull.Returns → s.completionSound → s.pull.inFlight = 0 →
    (s.pull.completed = 0 → s.tip = false) →
    ∃ u frames t, ArmedFrom s u frames ∧ exec .routerPass s = .next t ∧
      ((pullPhase s.cfg frames).2 = true → t = u.respond .ok 1 0
        (u32le (image32 (pullPhase s.cfg frames).1.length) ++
          (pullPhase s.cfg frames).1.flatMap RouterEvent.record)) ∧
      ((pullPhase s.cfg frames).2 = false → s.push.Returns →
        ∃ r, pushPhase s.cfg s.push.available s.pp s.push = .ok r ∧
          t = { u with pp := r.parser, push := r.transport }.respond
            (if r.found then .ok else .no) 1 (BitVec.ofNat 16 r.used)
            (u32le (image32 ((pullPhase s.cfg frames).1 ++ r.events).length) ++
              ((pullPhase s.cfg frames).1 ++ r.events).flatMap RouterEvent.record)) ∧
      PassAnswers .router frames true u t

/-- 30_encoding R111, R112: the frame records and the event records, the scale's pattern carried unchanged; 30_encoding
R104, R105: the bytes of a response and the status codes. -/
def Obligations.ResponseAndRecordLayout : Prop :=
  (∀ f : Frame, f.record = [f.id, lo8 f.len, hi8 f.len] ++ f.payload) ∧
  (∀ f : Frame, (RouterEvent.dispatchPull f).record = 0x00 :: ([f.id, lo8 f.len, hi8 f.len] ++ f.payload)) ∧
  (∀ f : Frame, (RouterEvent.dispatchPush f).record = 0x01 :: ([f.id, lo8 f.len, hi8 f.len] ++ f.payload)) ∧
  (∀ (id : Byte) (ch : Change), ∃ s0 s1 s2 s3 : Byte,
    (RouterEvent.change id ch).record = [0x02, id, if ch.tareRequested then 1 else 0, s0, s1, s2, s3] ∧
    ch.scale = s3 ++ s2 ++ s1 ++ s0) ∧
  (∀ r : Response, r.bytes = [r.status.code, r.b8, lo8 r.h16, hi8 r.h16] ++ r.data) ∧
  [Status.ok, .no, .dropped, .fault, .illegal].map Status.code = [0x00, 0x01, 0x02, 0xFE, 0xFF]

/-! ### Registers -/

/-- 46_control R280, R281, R282, R285: RD_REG answers OK with the register's 32-bit value, little-endian, and changes
nothing.
What a register shows of a quantity of 2^32 or more is left open (notes/assumptions/15). -/
def Obligations.RdRegAnswers : Prop :=
  ∀ (s : State) (reg : Reg), s.accepts (.rdReg reg) →
    exec (.rdReg reg) s = .next (s.respond .ok 0 0 (u32le (regValue s reg))) ∧
    regValue s .cfgMaxPayload = BitVec.ofNat 32 s.cfg.maxPayload ∧
    (s.cfg.rbCap < 2 ^ 32 → regValue s .cfgRbCap = BitVec.ofNat 32 s.cfg.rbCap) ∧
    regValue s .cfgXferCap = BitVec.ofNat 32 s.cfg.xferCap ∧
    regValue s .cfgAlign = BitVec.ofNat 32 s.cfg.align ∧
    (s.cfg.idxW < 2 ^ 32 → regValue s .cfgIdxW = BitVec.ofNat 32 s.cfg.idxW) ∧
    regValue s .cntSendReject = s.cntSendReject ∧ regValue s .cntQueueDrop = s.cntQueueDrop ∧
    (s.rb.count s.cfg < 2 ^ 32 → regValue s .rbCount = BitVec.ofNat 32 (s.rb.count s.cfg))

/-- 46_control R283, R284; 10_state R34: the fields of STATUS and of CFG_OPTIONS, reserved fields being 0; the codes of
the parser states. That STATUS reads 0 after reset the spec derives (R284) from 10_state R55: `tip`, `fault`,
`fault_reason` and both `frm_valid` are 0 there, and both parsers are in SEEK1, whose code in R34 is 0. -/
def Obligations.StatusAndOptionsFields : Prop :=
  (∀ (s : State), (regValue s .status).getLsbD 0 = s.tip ∧ (regValue s .status).getLsbD 1 = s.fault ∧
    (regValue s .status).extractLsb' 2 3 = s.pp.ps.code ∧ (regValue s .status).extractLsb' 5 3 = s.pl.ps.code ∧
    (regValue s .status).getLsbD 8 = s.pp.frmValid ∧ (regValue s .status).getLsbD 9 = s.pl.frmValid ∧
    (regValue s .status).extractLsb' 10 6 = 0 ∧ (regValue s .status).extractLsb' 16 8 = s.faultReason ∧
    (regValue s .status).extractLsb' 24 8 = 0 ∧
    (regValue s .cfgOptions).getLsbD 0 = decide (s.cfg.crcProfile = .x25Named) ∧
    (regValue s .cfgOptions).getLsbD 1 = decide (s.cfg.seek2OnA5 = .hold) ∧
    (regValue s .cfgOptions).getLsbD 2 = decide (s.cfg.queueOnFull = .goOn) ∧
    (regValue s .cfgOptions).extractLsb' 3 5 = 0 ∧ (regValue s .cfgOptions).extractLsb' 8 8 = s.cfg.changeId ∧
    (regValue s .cfgOptions).extractLsb' 16 16 = 0) ∧
  (∀ cfg : Params, regValue (State.initial cfg) .status = 0) ∧
  [ParserState.seek1, .seek2, .lenLo, .lenHi, .id, .payload, .crcLo, .crcHi].map ParserState.code =
    [0, 1, 2, 3, 4, 5, 6, 7]

/-! ### Faults and contexts -/

/-- 60_exceptions R306: raising a fault sets the flag, records the reason only if none is recorded, gives the FAULT
response, and changes nothing else; 60_exceptions R307: the reason codes. -/
def Obligations.RaiseKeepsTheFirstReason : Prop :=
  (∀ (s : State) (r : FaultReason),
    (s.fault = false → s.raise r = { s with fault := true, faultReason := r.code }.respond .fault 0 0 []) ∧
    (s.fault = true → s.raise r = s.respond .fault 0 0 [])) ∧
  [FaultReason.completionWithoutArm, .multipleCompletions, .rxOverrun, .lostTransaction, .inFlightWithoutArm,
    .inFlightOverflow, .contextConflict].map FaultReason.code = [1, 2, 3, 4, 5, 6, 7]

/-- 20_memory R77, 60_exceptions R308: with two contexts a command outside the issuing context's list faults with
CONTEXT_CONFLICT and does nothing else; every other command passes the check.
R77 speaks of two contexts only: that one context may issue every command is the model's choice
(notes/assumptions/10). -/
def Obligations.ForeignCommandConflicts : Prop :=
  ∀ (s : State) (i : Instr), paramsValid s.cfg = true →
    (s.twoContexts = true →
      (s.turn = .p ∧ (i = .rbPop ∨ i = .rbIsEmpty ∨ (∃ sel b, i = .parseByte sel b) ∨ (∃ sel, i = .getFrame sel) ∨
          (∃ id payload, i = .sendPush id payload) ∨ i = .pullPoll ∨ i = .routerPass) ∨
        s.turn = .c ∧ ((∃ b, i = .rbPush b) ∨ ∃ id payload, i = .sendQueue id payload)) →
      exec i s = .next (s.raise .contextConflict)) ∧
    (s.twoContexts = false → s.accepts i) ∧
    (s.turn = .p → ((∃ b, i = .rbPush b) ∨ (∃ id payload, i = .sendQueue id payload) ∨
        (∃ crc b, i = .crcUpdate crc b) ∨ (∃ id data, i = .crc16 id data) ∨ ∃ reg, i = .rdReg reg) →
      s.accepts i) ∧
    (s.turn = .c → (∀ b, i ≠ .rbPush b) → (∀ id payload, i ≠ .sendQueue id payload) → s.accepts i)

/-- 10_state R42, R43, R56: only the producer's commands change `rb.head` and the ring's bytes, only the consumer's
change `rb.tail`; with two contexts no step of C changes the former and no step of P the latter, but for a reset that
waits.
Which commands take several steps is the model's choice (notes/assumptions/8, 9, 13). -/
def Obligations.RingIndexesHaveOneWriter : Prop :=
  (∀ (i : Instr) (s t : State), exec i s = .next t →
    ((∀ b, i ≠ .rbPush b) → (∀ id payload, i ≠ .sendQueue id payload) →
      t.rb.head = s.rb.head ∧ t.rb.mem = s.rb.mem) ∧
    (i ≠ .rbPop → i ≠ .pullPoll → i ≠ .routerPass → t.rb.tail = s.rb.tail)) ∧
  (∀ (s u t : State), s.Good → s.turnedTo u → u.twoContexts = true → u.resetPending = false → step s = .next t →
    (u.turn = .c → t.rb.head = u.rb.head ∧ t.rb.mem = u.rb.mem) ∧
    (u.turn = .p → t.rb.tail = u.rb.tail))
end

