-- ==== Sys2Proof/Laws/Bytes.lean ====
section
/-! SUPPORT. Laws of the byte order and of `roundup`. -/

namespace Sys2Proof.Machine

@[simp] theorem lo8_u16Of (lo hi : Byte) : lo8 (u16Of lo hi) = lo := by
  apply BitVec.eq_of_getLsbD_eq
  intro i hi'
  simp [lo8, u16Of, hi', show i < 16 by omega]

@[simp] theorem hi8_u16Of (lo hi : Byte) : hi8 (u16Of lo hi) = hi := by
  apply BitVec.eq_of_getLsbD_eq
  intro i hi'
  simp [hi8, u16Of, hi', show 8 + i < 16 by omega]

@[simp] theorem u16Of_lo8_hi8 (v : U16) : u16Of (lo8 v) (hi8 v) = v := by
  apply BitVec.eq_of_getLsbD_eq
  intro i hi'
  by_cases h : i < 8
  · simp [lo8, hi8, u16Of, h, hi']
  · simp [lo8, hi8, u16Of, h, hi', show i - 8 < 8 by omega, show 8 + (i - 8) = i by omega]

theorem u16Of_inj {a b c d : Byte} (h : u16Of a b = u16Of c d) : a = c ∧ b = d :=
  ⟨by simpa using congrArg lo8 h, by simpa using congrArg hi8 h⟩

@[simp] theorem u32le_length (v : U32) : (u32le v).length = 4 := rfl

@[simp] theorem roundup_mod (n a : Nat) : roundup n a % a = 0 := Nat.mul_mod_left _ _

theorem le_roundup (n : Nat) {a : Nat} (ha : 1 ≤ a) : n ≤ roundup n a := by
  have h := Nat.lt_div_mul_add (show 0 < a by omega) (a := n + a - 1)
  unfold roundup
  omega

theorem roundup_lt (n : Nat) {a : Nat} (ha : 1 ≤ a) : roundup n a < n + a := by
  have h := Nat.div_mul_le_self (n + a - 1) a
  unfold roundup
  omega

/-- `roundup` is the least multiple that is large enough (00_scope R20). -/
theorem roundup_le_of_dvd {n a k : Nat} (ha : 1 ≤ a) (hk : n ≤ k) (hd : k % a = 0) : roundup n a ≤ k := by
  obtain ⟨q, rfl⟩ := Nat.dvd_of_mod_eq_zero hd
  have h1 := roundup_lt n ha
  have h2 : roundup n a = (n + a - 1) / a * a := rfl
  rw [h2] at h1 ⊢
  rw [Nat.mul_comm a q] at hk ⊢
  have : (n + a - 1) / a < q + 1 := by
    apply Nat.lt_of_mul_lt_mul_right (a := a)
    rw [Nat.add_mul]
    omega
  exact Nat.mul_le_mul_right a (by omega)

end Sys2Proof.Machine
end

