-- ==== Sys2Proof/Laws/Decode.lean ====
section
/-! SUPPORT. Laws of the decoder: the number fields, and what the field decoder can answer. -/

namespace Sys2Proof

@[simp] theorem ParserSel.ofNumber_number (sel : ParserSel) : ParserSel.ofNumber sel.number = some sel := by
  cases sel <;> decide

@[simp] theorem Reg.ofNumber_number (r : Reg) : Reg.ofNumber r.number = some r := by cases r <;> decide

theorem ParserSel.ofNumber_eq_some {n : U16} {sel : ParserSel} (h : ParserSel.ofNumber n = some sel) :
    n = sel.number := by
  unfold ParserSel.ofNumber at h
  split_ifs at h <;> cases h <;> simp_all [ParserSel.number]

theorem Reg.ofNumber_eq_some {n : U16} {r : Reg} (h : Reg.ofNumber n = some r) : n = r.number := by
  unfold Reg.ofNumber at h
  split_ifs at h <;> cases h <;> simp_all [Reg.number]

theorem decodeBare_eq_ok {b8 : Byte} {h16 : U16} {i j : Instr} :
    decodeBare b8 h16 j = .ok i ↔ b8 = 0 ∧ h16 = 0 ∧ i = j := by
  unfold decodeBare
  split_ifs with hb hh
  · exact ⟨fun h => (by cases h), fun h => absurd h.1 hb⟩
  · exact ⟨fun h => (by cases h), fun h => absurd h.2.1 hh⟩
  · exact ⟨fun h => ⟨not_not.1 hb, not_not.1 hh, (Except.ok.inj h).symm⟩, fun h => by rw [h.2.2]⟩

/-- What the field decoder can answer, by opcode (30_encoding R113). -/
theorem decodeFields_eq_ok {op b8 : Byte} {h16 : U16} {data : List Byte} {i : Instr}
    (h : decodeFields op b8 h16 data = .ok i) :
    op = 0x01 ∧ i = .crcUpdate h16 b8 ∨ op = 0x02 ∧ i = .crc16 b8 data ∨ op = 0x10 ∧ h16 = 0 ∧ i = .rbPush b8 ∨
    op = 0x11 ∧ b8 = 0 ∧ h16 = 0 ∧ i = .rbPop ∨ op = 0x12 ∧ b8 = 0 ∧ h16 = 0 ∧ i = .rbIsEmpty ∨
    (op = 0x20 ∧ ∃ sel : ParserSel, h16 = sel.number ∧ i = .parseByte sel b8) ∨
    (op = 0x21 ∧ b8 = 0 ∧ ∃ sel : ParserSel, h16 = sel.number ∧ i = .getFrame sel) ∨
    op = 0x30 ∧ i = .sendPush b8 data ∨ op = 0x31 ∧ i = .sendQueue b8 data ∨
    op = 0x40 ∧ b8 = 0 ∧ h16 = 0 ∧ i = .pullPoll ∨ op = 0x50 ∧ b8 = 0 ∧ h16 = 0 ∧ i = .routerPass ∨
    (op = 0x60 ∧ b8 = 0 ∧ ∃ reg : Reg, h16 = reg.number ∧ i = .rdReg reg) := by
  unfold decodeFields at h
  by_cases o1 : op = 0x01
  · simp only [o1, if_true, Except.ok.injEq] at h; exact .inl ⟨o1, h.symm⟩
  refine .inr ?_; rw [if_neg o1] at h
  by_cases o2 : op = 0x02
  · simp only [o2, if_true, Except.ok.injEq] at h; exact .inl ⟨o2, h.symm⟩
  refine .inr ?_; rw [if_neg o2] at h
  by_cases o3 : op = 0x10
  · rw [if_pos o3] at h; split_ifs at h with hh
    simp only [Except.ok.injEq] at h; exact .inl ⟨o3, by simpa using hh, h.symm⟩
  refine .inr ?_; rw [if_neg o3] at h
  by_cases o4 : op = 0x11
  · rw [if_pos o4] at h; exact .inl ⟨o4, decodeBare_eq_ok.1 h⟩
  refine .inr ?_; rw [if_neg o4] at h
  by_cases o5 : op = 0x12
  · rw [if_pos o5] at h; exact .inl ⟨o5, decodeBare_eq_ok.1 h⟩
  refine .inr ?_; rw [if_neg o5] at h
  by_cases o6 : op = 0x20
  · rw [if_pos o6] at h
    cases hs : ParserSel.ofNumber h16 <;> simp only [hs] at h <;> cases h
    exact .inl ⟨o6, _, ParserSel.ofNumber_eq_some hs, rfl⟩
  refine .inr ?_; rw [if_neg o6] at h
  by_cases o7 : op = 0x21
  · rw [if_pos o7] at h; split_ifs at h with hb
    cases hs : ParserSel.ofNumber h16 <;> simp only [hs] at h <;> cases h
    exact .inl ⟨o7, by simpa using hb, _, ParserSel.ofNumber_eq_some hs, rfl⟩
  refine .inr ?_; rw [if_neg o7] at h
  by_cases o8 : op = 0x30
  · rw [if_pos o8] at h; simp only [Except.ok.injEq] at h; exact .inl ⟨o8, h.symm⟩
  refine .inr ?_; rw [if_neg o8] at h
  by_cases o9 : op = 0x31
  · rw [if_pos o9] at h; simp only [Except.ok.injEq] at h; exact .inl ⟨o9, h.symm⟩
  refine .inr ?_; rw [if_neg o9] at h
  by_cases o10 : op = 0x40
  · rw [if_pos o10] at h; exact .inl ⟨o10, decodeBare_eq_ok.1 h⟩
  refine .inr ?_; rw [if_neg o10] at h
  by_cases o11 : op = 0x50
  · rw [if_pos o11] at h; exact .inl ⟨o11, decodeBare_eq_ok.1 h⟩
  refine .inr ?_; rw [if_neg o11] at h
  by_cases o12 : op = 0x60
  · rw [if_pos o12] at h; split_ifs at h with hb
    cases hs : Reg.ofNumber h16 <;> simp only [hs] at h <;> cases h
    exact ⟨o12, by simpa using hb, _, Reg.ofNumber_eq_some hs, rfl⟩
  rw [if_neg o12] at h
  cases h

/-- The field decoder never asks for more bytes: only the data phase can be missing (30_encoding R102). -/
theorem decodeFields_ne_truncated (op b8 : Byte) (h16 : U16) (data : List Byte) :
    decodeFields op b8 h16 data ≠ .error .truncated := by
  have hif : ∀ (c : Prop) [Decidable c] {a b : Except DecodeReject Instr}, a ≠ .error .truncated →
      b ≠ .error .truncated → (if c then a else b) ≠ .error .truncated := by
    intro c _ a b ha hb
    by_cases h : c
    · rwa [if_pos h]
    · rwa [if_neg h]
  have hok : ∀ i : Instr, (Except.ok i : Except DecodeReject Instr) ≠ .error .truncated := by intro i h; cases h
  have hill : ∀ w, (Except.error (.illegal w) : Except DecodeReject Instr) ≠ .error .truncated := by
    intro w h; cases h
  have hbare : ∀ j, decodeBare b8 h16 j ≠ .error .truncated := fun j => hif _ (hill _) (hif _ (hill _) (hok _))
  unfold decodeFields
  cases ParserSel.ofNumber h16 <;> cases Reg.ofNumber h16 <;>
    repeat' first | apply hok | apply hill | apply hbare | apply hif

/-- What the decoder can answer (30_encoding R101, R102). -/
theorem decode_eq_ok {bytes later : List Byte} {i : Instr} (h : decode bytes = .ok (i, later)) :
    ∃ op b8 h0 h1 rest, bytes = op :: b8 :: h0 :: h1 :: rest ∧
      dataPhaseLength op (Machine.u16Of h0 h1) ≤ rest.length ∧
      decodeFields op b8 (Machine.u16Of h0 h1) (rest.take (dataPhaseLength op (Machine.u16Of h0 h1))) = .ok i ∧
      later = rest.drop (dataPhaseLength op (Machine.u16Of h0 h1)) := by
  unfold decode at h
  split at h
  case h_2 => cases h
  case h_1 op b8 h0 h1 rest =>
    dsimp only at h
    split_ifs at h with hl
    split at h
    case h_2 => cases h
    case h_1 j hj =>
      simp only [Except.ok.injEq, Prod.mk.injEq] at h
      obtain ⟨rfl, rfl⟩ := h
      exact ⟨op, b8, h0, h1, rest, rfl, not_lt.1 hl, hj, rfl⟩

end Sys2Proof
end

