-- ==== Sys2Proof/Laws/Memory.lean ====
section
/-! SUPPORT. Laws of the byte arrays: a read after a write, the canonical form, and the ranges (20_memory R71). -/

namespace Sys2Proof.Machine

@[simp] theorem Memory.read_nil (i : Nat) : Memory.read [] i = Memory.unlisted := rfl

theorem Memory.wf_nil : Memory.wf [] := by simp [Memory.wf]

theorem Memory.within_nil (n : Nat) : Memory.within n [] := by simp [Memory.within, Memory.wf]

theorem Memory.wf_cons {c : Host.Cell} {m : Memory} :
    Memory.wf (c :: m) ↔ (∀ d ∈ m, c.1 < d.1) ∧ c.2 ≠ Memory.unlisted ∧ m.wf := by
  simp only [Memory.wf, List.pairwise_cons, List.mem_cons, forall_eq_or_imp]
  tauto

/-- An index below every listed one is unlisted. -/
theorem Memory.read_of_lt {m : Memory} {i : Nat} (h : ∀ c ∈ m, i < c.1) : Memory.read m i = Memory.unlisted := by
  induction m with
  | nil => rfl
  | cons c t ih =>
    have hc : i < c.1 := h c (by simp)
    rw [Memory.read, if_neg (by omega)]
    exact ih fun d hd => h d (by simp [hd])

/-- Every cell after a write is an old one or the written one. -/
theorem Memory.mem_write {m : Memory} {i : Nat} {v : Byte} {c : Host.Cell} (h : c ∈ Memory.write m i v) :
    c ∈ m ∨ c = (i, v) := by
  induction m with
  | nil =>
    simp only [Memory.write] at h
    split at h <;> simp_all
  | cons d t ih =>
    obtain ⟨j, w⟩ := d
    simp only [Memory.write] at h
    split at h
    · rcases List.mem_cons.1 h with rfl | h
      · simp
      · rcases ih h with h | h <;> simp [h]
    · split at h
      · split at h <;> simp_all
        tauto
      · split at h <;> simp_all
        tauto

/-- A write keeps the canonical form. -/
theorem Memory.wf_write {m : Memory} (h : m.wf) (i : Nat) (v : Byte) : (Memory.write m i v).wf := by
  induction m with
  | nil =>
    simp only [Memory.write]
    split <;> simp_all [Memory.wf]
  | cons d t ih =>
    obtain ⟨j, w⟩ := d
    obtain ⟨hlt, hw, ht⟩ := Memory.wf_cons.1 h
    simp only [Memory.write]
    split_ifs with h1 h2 h3 h3
    · refine Memory.wf_cons.2 ⟨fun d hd => ?_, hw, ih ht⟩
      rcases Memory.mem_write hd with hd | rfl
      · exact hlt d hd
      · exact h1
    · exact ht
    · subst h2
      exact Memory.wf_cons.2 ⟨hlt, h3, ht⟩
    · exact h
    · refine Memory.wf_cons.2 ⟨fun d hd => ?_, h3, h⟩
      rcases List.mem_cons.1 hd with rfl | hd
      · show i < j
        omega
      · have : j < d.1 := hlt d hd
        show i < d.1
        omega

/-- A read after a write: the written byte at its index, every other byte as before (20_memory R71). -/
theorem Memory.read_write {m : Memory} (h : m.wf) (i k : Nat) (v : Byte) :
    Memory.read (Memory.write m i v) k = if k = i then v else Memory.read m k := by
  induction m with
  | nil =>
    simp only [Memory.write]
    split_ifs <;> simp_all [Memory.read, eq_comm]
  | cons d t ih =>
    obtain ⟨j, w⟩ := d
    obtain ⟨hlt, hw, ht⟩ := Memory.wf_cons.1 h
    have hz : k ≤ j → Memory.read t k = Memory.unlisted := fun hk =>
      Memory.read_of_lt fun c hc => by have : j < c.1 := hlt c hc; omega
    simp only [Memory.write]
    by_cases h1 : j < i
    · simp only [if_pos h1, Memory.read, ih ht]
      split_ifs <;> first | rfl | omega
    rw [if_neg h1]
    by_cases h2 : j = i
    · subst h2
      rw [if_pos rfl]
      by_cases h4 : k = j
      · subst h4
        by_cases h3 : v = Memory.unlisted <;> simp [h3, Memory.read, hz]
      · by_cases h3 : v = Memory.unlisted <;> simp [h3, h4, Memory.read, Ne.symm h4]
    · rw [if_neg h2]
      by_cases h4 : k = i
      · subst h4
        by_cases h3 : v = Memory.unlisted
        · simp [h3, Memory.read, h2, hz (by omega)]
        · simp [h3, Memory.read]
      · by_cases h3 : v = Memory.unlisted <;> simp [h3, h4, Memory.read, Ne.symm h4]

/-- A write inside an array stays inside it. -/
theorem Memory.within_write {n : Nat} {m : Memory} (h : m.within n) {i : Nat} (hi : i < n) (v : Byte) :
    (Memory.write m i v).within n :=
  ⟨Memory.wf_write h.1 i v, fun c hc => by
    rcases Memory.mem_write hc with hc | rfl
    · exact h.2 c hc
    · exact hi⟩

theorem Memory.wf_writeBytes {m : Memory} (h : m.wf) (i : Nat) (bytes : List Byte) :
    (Memory.writeBytes m i bytes).wf := by
  induction bytes generalizing m i with
  | nil => exact h
  | cons b t ih => exact ih (Memory.wf_write h i b) (i + 1)

theorem Memory.within_writeBytes {n : Nat} {m : Memory} (h : m.within n) (i : Nat) (bytes : List Byte)
    (hi : i + bytes.length ≤ n) : (Memory.writeBytes m i bytes).within n := by
  induction bytes generalizing m i with
  | nil => exact h
  | cons b t ih =>
    simp only [List.length_cons] at hi
    exact ih (Memory.within_write h (by omega) b) (i + 1) (by omega)

/-- A read after a range was written: the written byte inside the range, every other byte as before. -/
theorem Memory.read_writeBytes {m : Memory} (h : m.wf) (i k : Nat) (bytes : List Byte) :
    Memory.read (Memory.writeBytes m i bytes) k =
      if i ≤ k ∧ k < i + bytes.length then bytes.getD (k - i) Memory.unlisted else Memory.read m k := by
  induction bytes generalizing m i with
  | nil =>
    rw [if_neg (by simp)]
    rfl
  | cons b t ih =>
    rw [Memory.writeBytes, ih (Memory.wf_write h i b), Memory.read_write h]
    simp only [List.length_cons]
    by_cases hk : k = i
    · subst hk
      simp
    · by_cases hin : i + 1 ≤ k ∧ k < i + 1 + t.length
      · rw [if_pos hin, if_pos (by omega), show k - i = (k - (i + 1)) + 1 by omega]
        simp
      · rw [if_neg hin, if_neg hk, if_neg (by omega)]

@[simp] theorem Memory.readPrefix_length (m : Memory) (n : Nat) : (Memory.readPrefix m n).length = n := by
  simp [Memory.readPrefix]

@[simp] theorem Memory.readPrefix_getElem (m : Memory) (n i : Nat) (h : i < (Memory.readPrefix m n).length) :
    (Memory.readPrefix m n)[i] = Memory.read m i := by
  simp [Memory.readPrefix]

theorem Memory.readPrefix_congr {m m' : Memory} {n : Nat} (h : ∀ i < n, Memory.read m i = Memory.read m' i) :
    Memory.readPrefix m n = Memory.readPrefix m' n := by
  apply List.ext_getElem (by simp)
  intro i h1 h2
  simpa using h i (by simpa using h1)

/-- A range that was just written reads as it was written. -/
theorem Memory.readPrefix_writeBytes {m : Memory} (h : m.wf) (bytes : List Byte) :
    Memory.readPrefix (Memory.writeBytes m 0 bytes) bytes.length = bytes := by
  apply List.ext_getElem (by simp)
  intro i h1 h2
  rw [Memory.readPrefix_getElem, Memory.read_writeBytes h, if_pos (by omega)]
  simp [h2]

/-! ### The accesses with a size -/

theorem memRead_ok {n : Nat} {m : Memory} {i : Nat} (h : i < n) : memRead n m i = .ok (Memory.read m i) := if_pos h

theorem memWrite_ok {n : Nat} {m : Memory} {i : Nat} (h : i < n) (v : Byte) :
    memWrite n m i v = .ok (Memory.write m i v) := if_pos h

theorem memReadPrefix_ok {size : Nat} {m : Memory} {n : Nat} (h : n ≤ size) :
    memReadPrefix size m n = .ok (Memory.readPrefix m n) := if_pos h

theorem memWriteBytes_ok {size : Nat} {m : Memory} {i : Nat} {bytes : List Byte} (h : i + bytes.length ≤ size) :
    memWriteBytes size m i bytes = .ok (Memory.writeBytes m i bytes) := if_pos h

/-- What a read with a size can answer. -/
theorem memRead_eq_ok {n : Nat} {m : Memory} {i : Nat} {b : Byte} :
    memRead n m i = .ok b ↔ i < n ∧ b = Memory.read m i := by
  unfold memRead; split_ifs <;> simp_all [eq_comm]

/-- What a write with a size can answer. -/
theorem memWrite_eq_ok {n : Nat} {m m' : Memory} {i : Nat} {v : Byte} :
    memWrite n m i v = .ok m' ↔ i < n ∧ m' = Memory.write m i v := by
  unfold memWrite; split_ifs <;> simp_all [eq_comm]

/-- What a range read with a size can answer. -/
theorem memReadPrefix_eq_ok {size : Nat} {m : Memory} {n : Nat} {bytes : List Byte} :
    memReadPrefix size m n = .ok bytes ↔ n ≤ size ∧ bytes = Memory.readPrefix m n := by
  unfold memReadPrefix; split_ifs <;> simp_all [eq_comm]

/-- What a range write with a size can answer. -/
theorem memWriteBytes_eq_ok {size : Nat} {m m' : Memory} {i : Nat} {bytes : List Byte} :
    memWriteBytes size m i bytes = .ok m' ↔ i + bytes.length ≤ size ∧ m' = Memory.writeBytes m i bytes := by
  unfold memWriteBytes; split_ifs <;> simp_all [eq_comm]

end Sys2Proof.Machine
end

