-- ==== Sys2Proof/Laws/State.lean ====
section
/-! SUPPORT. Laws of the state's updates: one lemma per field per update. -/

namespace Sys2Proof.Machine

/-! ### `withPort` -/

@[simp] theorem State.withPort_cfg (s : State) (x : Context) (q : Port) : (s.withPort x q).cfg = s.cfg := rfl
@[simp] theorem State.withPort_pp (s : State) (x : Context) (q : Port) : (s.withPort x q).pp = s.pp := rfl
@[simp] theorem State.withPort_pl (s : State) (x : Context) (q : Port) : (s.withPort x q).pl = s.pl := rfl
@[simp] theorem State.withPort_rb (s : State) (x : Context) (q : Port) : (s.withPort x q).rb = s.rb := rfl
@[simp] theorem State.withPort_tip (s : State) (x : Context) (q : Port) : (s.withPort x q).tip = s.tip := rfl
@[simp] theorem State.withPort_tx (s : State) (x : Context) (q : Port) : (s.withPort x q).tx = s.tx := rfl
@[simp] theorem State.withPort_txLen (s : State) (x : Context) (q : Port) : (s.withPort x q).txLen = s.txLen := rfl
@[simp] theorem State.withPort_rx (s : State) (x : Context) (q : Port) : (s.withPort x q).rx = s.rx := rfl
@[simp] theorem State.withPort_cntSendReject (s : State) (x : Context) (q : Port) : (s.withPort x q).cntSendReject = s.cntSendReject := rfl
@[simp] theorem State.withPort_cntQueueDrop (s : State) (x : Context) (q : Port) : (s.withPort x q).cntQueueDrop = s.cntQueueDrop := rfl
@[simp] theorem State.withPort_fault (s : State) (x : Context) (q : Port) : (s.withPort x q).fault = s.fault := rfl
@[simp] theorem State.withPort_faultReason (s : State) (x : Context) (q : Port) : (s.withPort x q).faultReason = s.faultReason := rfl
@[simp] theorem State.withPort_push (s : State) (x : Context) (q : Port) : (s.withPort x q).push = s.push := rfl
@[simp] theorem State.withPort_pull (s : State) (x : Context) (q : Port) : (s.withPort x q).pull = s.pull := rfl
@[simp] theorem State.withPort_twoContexts (s : State) (x : Context) (q : Port) : (s.withPort x q).twoContexts = s.twoContexts := rfl
@[simp] theorem State.withPort_turn (s : State) (x : Context) (q : Port) : (s.withPort x q).turn = s.turn := rfl
@[simp] theorem State.withPort_resetPending (s : State) (x : Context) (q : Port) : (s.withPort x q).resetPending = s.resetPending := rfl
@[simp] theorem State.withPort_inputs (s : State) (x : Context) (q : Port) : (s.withPort x q).inputs = s.inputs := rfl
@[simp] theorem State.withPort_issuer (s : State) (x : Context) (q : Port) : (s.withPort x q).issuer = s.issuer := rfl

/-! ### `setPort` -/

@[simp] theorem State.setPort_cfg (s : State) (q : Port) : (s.setPort q).cfg = s.cfg := rfl
@[simp] theorem State.setPort_pp (s : State) (q : Port) : (s.setPort q).pp = s.pp := rfl
@[simp] theorem State.setPort_pl (s : State) (q : Port) : (s.setPort q).pl = s.pl := rfl
@[simp] theorem State.setPort_rb (s : State) (q : Port) : (s.setPort q).rb = s.rb := rfl
@[simp] theorem State.setPort_tip (s : State) (q : Port) : (s.setPort q).tip = s.tip := rfl
@[simp] theorem State.setPort_tx (s : State) (q : Port) : (s.setPort q).tx = s.tx := rfl
@[simp] theorem State.setPort_txLen (s : State) (q : Port) : (s.setPort q).txLen = s.txLen := rfl
@[simp] theorem State.setPort_rx (s : State) (q : Port) : (s.setPort q).rx = s.rx := rfl
@[simp] theorem State.setPort_cntSendReject (s : State) (q : Port) : (s.setPort q).cntSendReject = s.cntSendReject := rfl
@[simp] theorem State.setPort_cntQueueDrop (s : State) (q : Port) : (s.setPort q).cntQueueDrop = s.cntQueueDrop := rfl
@[simp] theorem State.setPort_fault (s : State) (q : Port) : (s.setPort q).fault = s.fault := rfl
@[simp] theorem State.setPort_faultReason (s : State) (q : Port) : (s.setPort q).faultReason = s.faultReason := rfl
@[simp] theorem State.setPort_push (s : State) (q : Port) : (s.setPort q).push = s.push := rfl
@[simp] theorem State.setPort_pull (s : State) (q : Port) : (s.setPort q).pull = s.pull := rfl
@[simp] theorem State.setPort_twoContexts (s : State) (q : Port) : (s.setPort q).twoContexts = s.twoContexts := rfl
@[simp] theorem State.setPort_turn (s : State) (q : Port) : (s.setPort q).turn = s.turn := rfl
@[simp] theorem State.setPort_resetPending (s : State) (q : Port) : (s.setPort q).resetPending = s.resetPending := rfl
@[simp] theorem State.setPort_inputs (s : State) (q : Port) : (s.setPort q).inputs = s.inputs := rfl
@[simp] theorem State.setPort_issuer (s : State) (q : Port) : (s.setPort q).issuer = s.issuer := rfl

/-! ### `setProgress` -/

@[simp] theorem State.setProgress_cfg (s : State) (g : Progress) : (s.setProgress g).cfg = s.cfg := rfl
@[simp] theorem State.setProgress_pp (s : State) (g : Progress) : (s.setProgress g).pp = s.pp := rfl
@[simp] theorem State.setProgress_pl (s : State) (g : Progress) : (s.setProgress g).pl = s.pl := rfl
@[simp] theorem State.setProgress_rb (s : State) (g : Progress) : (s.setProgress g).rb = s.rb := rfl
@[simp] theorem State.setProgress_tip (s : State) (g : Progress) : (s.setProgress g).tip = s.tip := rfl
@[simp] theorem State.setProgress_tx (s : State) (g : Progress) : (s.setProgress g).tx = s.tx := rfl
@[simp] theorem State.setProgress_txLen (s : State) (g : Progress) : (s.setProgress g).txLen = s.txLen := rfl
@[simp] theorem State.setProgress_rx (s : State) (g : Progress) : (s.setProgress g).rx = s.rx := rfl
@[simp] theorem State.setProgress_cntSendReject (s : State) (g : Progress) : (s.setProgress g).cntSendReject = s.cntSendReject := rfl
@[simp] theorem State.setProgress_cntQueueDrop (s : State) (g : Progress) : (s.setProgress g).cntQueueDrop = s.cntQueueDrop := rfl
@[simp] theorem State.setProgress_fault (s : State) (g : Progress) : (s.setProgress g).fault = s.fault := rfl
@[simp] theorem State.setProgress_faultReason (s : State) (g : Progress) : (s.setProgress g).faultReason = s.faultReason := rfl
@[simp] theorem State.setProgress_push (s : State) (g : Progress) : (s.setProgress g).push = s.push := rfl
@[simp] theorem State.setProgress_pull (s : State) (g : Progress) : (s.setProgress g).pull = s.pull := rfl
@[simp] theorem State.setProgress_twoContexts (s : State) (g : Progress) : (s.setProgress g).twoContexts = s.twoContexts := rfl
@[simp] theorem State.setProgress_turn (s : State) (g : Progress) : (s.setProgress g).turn = s.turn := rfl
@[simp] theorem State.setProgress_resetPending (s : State) (g : Progress) : (s.setProgress g).resetPending = s.resetPending := rfl
@[simp] theorem State.setProgress_inputs (s : State) (g : Progress) : (s.setProgress g).inputs = s.inputs := rfl
@[simp] theorem State.setProgress_issuer (s : State) (g : Progress) : (s.setProgress g).issuer = s.issuer := rfl

/-! ### `setStream` -/

@[simp] theorem State.setStream_cfg (s : State) (rest : List Byte) : (s.setStream rest).cfg = s.cfg := rfl
@[simp] theorem State.setStream_pp (s : State) (rest : List Byte) : (s.setStream rest).pp = s.pp := rfl
@[simp] theorem State.setStream_pl (s : State) (rest : List Byte) : (s.setStream rest).pl = s.pl := rfl
@[simp] theorem State.setStream_rb (s : State) (rest : List Byte) : (s.setStream rest).rb = s.rb := rfl
@[simp] theorem State.setStream_tip (s : State) (rest : List Byte) : (s.setStream rest).tip = s.tip := rfl
@[simp] theorem State.setStream_tx (s : State) (rest : List Byte) : (s.setStream rest).tx = s.tx := rfl
@[simp] theorem State.setStream_txLen (s : State) (rest : List Byte) : (s.setStream rest).txLen = s.txLen := rfl
@[simp] theorem State.setStream_rx (s : State) (rest : List Byte) : (s.setStream rest).rx = s.rx := rfl
@[simp] theorem State.setStream_cntSendReject (s : State) (rest : List Byte) : (s.setStream rest).cntSendReject = s.cntSendReject := rfl
@[simp] theorem State.setStream_cntQueueDrop (s : State) (rest : List Byte) : (s.setStream rest).cntQueueDrop = s.cntQueueDrop := rfl
@[simp] theorem State.setStream_fault (s : State) (rest : List Byte) : (s.setStream rest).fault = s.fault := rfl
@[simp] theorem State.setStream_faultReason (s : State) (rest : List Byte) : (s.setStream rest).faultReason = s.faultReason := rfl
@[simp] theorem State.setStream_push (s : State) (rest : List Byte) : (s.setStream rest).push = s.push := rfl
@[simp] theorem State.setStream_pull (s : State) (rest : List Byte) : (s.setStream rest).pull = s.pull := rfl
@[simp] theorem State.setStream_twoContexts (s : State) (rest : List Byte) : (s.setStream rest).twoContexts = s.twoContexts := rfl
@[simp] theorem State.setStream_turn (s : State) (rest : List Byte) : (s.setStream rest).turn = s.turn := rfl
@[simp] theorem State.setStream_resetPending (s : State) (rest : List Byte) : (s.setStream rest).resetPending = s.resetPending := rfl
@[simp] theorem State.setStream_inputs (s : State) (rest : List Byte) : (s.setStream rest).inputs = s.inputs := rfl
@[simp] theorem State.setStream_issuer (s : State) (rest : List Byte) : (s.setStream rest).issuer = s.issuer := rfl

/-! ### `respond` -/

@[simp] theorem State.respond_cfg (s : State) (st : Status) (b8 : Byte) (h16 : U16) (data : List Byte) : (s.respond st b8 h16 data).cfg = s.cfg := rfl
@[simp] theorem State.respond_pp (s : State) (st : Status) (b8 : Byte) (h16 : U16) (data : List Byte) : (s.respond st b8 h16 data).pp = s.pp := rfl
@[simp] theorem State.respond_pl (s : State) (st : Status) (b8 : Byte) (h16 : U16) (data : List Byte) : (s.respond st b8 h16 data).pl = s.pl := rfl
@[simp] theorem State.respond_rb (s : State) (st : Status) (b8 : Byte) (h16 : U16) (data : List Byte) : (s.respond st b8 h16 data).rb = s.rb := rfl
@[simp] theorem State.respond_tip (s : State) (st : Status) (b8 : Byte) (h16 : U16) (data : List Byte) : (s.respond st b8 h16 data).tip = s.tip := rfl
@[simp] theorem State.respond_tx (s : State) (st : Status) (b8 : Byte) (h16 : U16) (data : List Byte) : (s.respond st b8 h16 data).tx = s.tx := rfl
@[simp] theorem State.respond_txLen (s : State) (st : Status) (b8 : Byte) (h16 : U16) (data : List Byte) : (s.respond st b8 h16 data).txLen = s.txLen := rfl
@[simp] theorem State.respond_rx (s : State) (st : Status) (b8 : Byte) (h16 : U16) (data : List Byte) : (s.respond st b8 h16 data).rx = s.rx := rfl
@[simp] theorem State.respond_cntSendReject (s : State) (st : Status) (b8 : Byte) (h16 : U16) (data : List Byte) : (s.respond st b8 h16 data).cntSendReject = s.cntSendReject := rfl
@[simp] theorem State.respond_cntQueueDrop (s : State) (st : Status) (b8 : Byte) (h16 : U16) (data : List Byte) : (s.respond st b8 h16 data).cntQueueDrop = s.cntQueueDrop := rfl
@[simp] theorem State.respond_fault (s : State) (st : Status) (b8 : Byte) (h16 : U16) (data : List Byte) : (s.respond st b8 h16 data).fault = s.fault := rfl
@[simp] theorem State.respond_faultReason (s : State) (st : Status) (b8 : Byte) (h16 : U16) (data : List Byte) : (s.respond st b8 h16 data).faultReason = s.faultReason := rfl
@[simp] theorem State.respond_push (s : State) (st : Status) (b8 : Byte) (h16 : U16) (data : List Byte) : (s.respond st b8 h16 data).push = s.push := rfl
@[simp] theorem State.respond_pull (s : State) (st : Status) (b8 : Byte) (h16 : U16) (data : List Byte) : (s.respond st b8 h16 data).pull = s.pull := rfl
@[simp] theorem State.respond_twoContexts (s : State) (st : Status) (b8 : Byte) (h16 : U16) (data : List Byte) : (s.respond st b8 h16 data).twoContexts = s.twoContexts := rfl
@[simp] theorem State.respond_turn (s : State) (st : Status) (b8 : Byte) (h16 : U16) (data : List Byte) : (s.respond st b8 h16 data).turn = s.turn := rfl
@[simp] theorem State.respond_resetPending (s : State) (st : Status) (b8 : Byte) (h16 : U16) (data : List Byte) : (s.respond st b8 h16 data).resetPending = s.resetPending := rfl
@[simp] theorem State.respond_inputs (s : State) (st : Status) (b8 : Byte) (h16 : U16) (data : List Byte) : (s.respond st b8 h16 data).inputs = s.inputs := rfl
@[simp] theorem State.respond_issuer (s : State) (st : Status) (b8 : Byte) (h16 : U16) (data : List Byte) : (s.respond st b8 h16 data).issuer = s.issuer := rfl

/-! ### `raise` -/

@[simp] theorem State.raise_cfg (s : State) (r : FaultReason) : (s.raise r).cfg = s.cfg := rfl
@[simp] theorem State.raise_pp (s : State) (r : FaultReason) : (s.raise r).pp = s.pp := rfl
@[simp] theorem State.raise_pl (s : State) (r : FaultReason) : (s.raise r).pl = s.pl := rfl
@[simp] theorem State.raise_rb (s : State) (r : FaultReason) : (s.raise r).rb = s.rb := rfl
@[simp] theorem State.raise_tip (s : State) (r : FaultReason) : (s.raise r).tip = s.tip := rfl
@[simp] theorem State.raise_tx (s : State) (r : FaultReason) : (s.raise r).tx = s.tx := rfl
@[simp] theorem State.raise_txLen (s : State) (r : FaultReason) : (s.raise r).txLen = s.txLen := rfl
@[simp] theorem State.raise_rx (s : State) (r : FaultReason) : (s.raise r).rx = s.rx := rfl
@[simp] theorem State.raise_cntSendReject (s : State) (r : FaultReason) : (s.raise r).cntSendReject = s.cntSendReject := rfl
@[simp] theorem State.raise_cntQueueDrop (s : State) (r : FaultReason) : (s.raise r).cntQueueDrop = s.cntQueueDrop := rfl
@[simp] theorem State.raise_push (s : State) (r : FaultReason) : (s.raise r).push = s.push := rfl
@[simp] theorem State.raise_pull (s : State) (r : FaultReason) : (s.raise r).pull = s.pull := rfl
@[simp] theorem State.raise_twoContexts (s : State) (r : FaultReason) : (s.raise r).twoContexts = s.twoContexts := rfl
@[simp] theorem State.raise_turn (s : State) (r : FaultReason) : (s.raise r).turn = s.turn := rfl
@[simp] theorem State.raise_resetPending (s : State) (r : FaultReason) : (s.raise r).resetPending = s.resetPending := rfl
@[simp] theorem State.raise_inputs (s : State) (r : FaultReason) : (s.raise r).inputs = s.inputs := rfl
@[simp] theorem State.raise_issuer (s : State) (r : FaultReason) : (s.raise r).issuer = s.issuer := rfl

/-! ### `setParser` -/

@[simp] theorem State.setParser_cfg (s : State) (sel : ParserSel) (P : Parser) : (s.setParser sel P).cfg = s.cfg := rfl
@[simp] theorem State.setParser_rb (s : State) (sel : ParserSel) (P : Parser) : (s.setParser sel P).rb = s.rb := rfl
@[simp] theorem State.setParser_tip (s : State) (sel : ParserSel) (P : Parser) : (s.setParser sel P).tip = s.tip := rfl
@[simp] theorem State.setParser_tx (s : State) (sel : ParserSel) (P : Parser) : (s.setParser sel P).tx = s.tx := rfl
@[simp] theorem State.setParser_txLen (s : State) (sel : ParserSel) (P : Parser) : (s.setParser sel P).txLen = s.txLen := rfl
@[simp] theorem State.setParser_rx (s : State) (sel : ParserSel) (P : Parser) : (s.setParser sel P).rx = s.rx := rfl
@[simp] theorem State.setParser_cntSendReject (s : State) (sel : ParserSel) (P : Parser) : (s.setParser sel P).cntSendReject = s.cntSendReject := rfl
@[simp] theorem State.setParser_cntQueueDrop (s : State) (sel : ParserSel) (P : Parser) : (s.setParser sel P).cntQueueDrop = s.cntQueueDrop := rfl
@[simp] theorem State.setParser_fault (s : State) (sel : ParserSel) (P : Parser) : (s.setParser sel P).fault = s.fault := rfl
@[simp] theorem State.setParser_faultReason (s : State) (sel : ParserSel) (P : Parser) : (s.setParser sel P).faultReason = s.faultReason := rfl
@[simp] theorem State.setParser_push (s : State) (sel : ParserSel) (P : Parser) : (s.setParser sel P).push = s.push := rfl
@[simp] theorem State.setParser_pull (s : State) (sel : ParserSel) (P : Parser) : (s.setParser sel P).pull = s.pull := rfl
@[simp] theorem State.setParser_twoContexts (s : State) (sel : ParserSel) (P : Parser) : (s.setParser sel P).twoContexts = s.twoContexts := rfl
@[simp] theorem State.setParser_turn (s : State) (sel : ParserSel) (P : Parser) : (s.setParser sel P).turn = s.turn := rfl
@[simp] theorem State.setParser_portP (s : State) (sel : ParserSel) (P : Parser) : (s.setParser sel P).portP = s.portP := rfl
@[simp] theorem State.setParser_portC (s : State) (sel : ParserSel) (P : Parser) : (s.setParser sel P).portC = s.portC := rfl
@[simp] theorem State.setParser_resetPending (s : State) (sel : ParserSel) (P : Parser) : (s.setParser sel P).resetPending = s.resetPending := rfl
@[simp] theorem State.setParser_inputs (s : State) (sel : ParserSel) (P : Parser) : (s.setParser sel P).inputs = s.inputs := rfl
@[simp] theorem State.setParser_issuer (s : State) (sel : ParserSel) (P : Parser) : (s.setParser sel P).issuer = s.issuer := rfl
@[simp] theorem State.setParser_port (s : State) (sel : ParserSel) (P : Parser) : (s.setParser sel P).port = s.port := rfl

/-! ### `countDrops` -/

@[simp] theorem State.countDrops_cfg (s : State) (n : Nat) : (s.countDrops n).cfg = s.cfg := rfl
@[simp] theorem State.countDrops_pp (s : State) (n : Nat) : (s.countDrops n).pp = s.pp := rfl
@[simp] theorem State.countDrops_pl (s : State) (n : Nat) : (s.countDrops n).pl = s.pl := rfl
@[simp] theorem State.countDrops_rb (s : State) (n : Nat) : (s.countDrops n).rb = s.rb := rfl
@[simp] theorem State.countDrops_tip (s : State) (n : Nat) : (s.countDrops n).tip = s.tip := rfl
@[simp] theorem State.countDrops_tx (s : State) (n : Nat) : (s.countDrops n).tx = s.tx := rfl
@[simp] theorem State.countDrops_txLen (s : State) (n : Nat) : (s.countDrops n).txLen = s.txLen := rfl
@[simp] theorem State.countDrops_rx (s : State) (n : Nat) : (s.countDrops n).rx = s.rx := rfl
@[simp] theorem State.countDrops_cntSendReject (s : State) (n : Nat) : (s.countDrops n).cntSendReject = s.cntSendReject := rfl
@[simp] theorem State.countDrops_fault (s : State) (n : Nat) : (s.countDrops n).fault = s.fault := rfl
@[simp] theorem State.countDrops_faultReason (s : State) (n : Nat) : (s.countDrops n).faultReason = s.faultReason := rfl
@[simp] theorem State.countDrops_push (s : State) (n : Nat) : (s.countDrops n).push = s.push := rfl
@[simp] theorem State.countDrops_pull (s : State) (n : Nat) : (s.countDrops n).pull = s.pull := rfl
@[simp] theorem State.countDrops_twoContexts (s : State) (n : Nat) : (s.countDrops n).twoContexts = s.twoContexts := rfl
@[simp] theorem State.countDrops_turn (s : State) (n : Nat) : (s.countDrops n).turn = s.turn := rfl
@[simp] theorem State.countDrops_portP (s : State) (n : Nat) : (s.countDrops n).portP = s.portP := rfl
@[simp] theorem State.countDrops_portC (s : State) (n : Nat) : (s.countDrops n).portC = s.portC := rfl
@[simp] theorem State.countDrops_resetPending (s : State) (n : Nat) : (s.countDrops n).resetPending = s.resetPending := rfl
@[simp] theorem State.countDrops_inputs (s : State) (n : Nat) : (s.countDrops n).inputs = s.inputs := rfl
@[simp] theorem State.countDrops_issuer (s : State) (n : Nat) : (s.countDrops n).issuer = s.issuer := rfl
@[simp] theorem State.countDrops_port (s : State) (n : Nat) : (s.countDrops n).port = s.port := rfl

/-! ### `rejectSend` -/

@[simp] theorem State.rejectSend_cfg (s : State) : (s.rejectSend).cfg = s.cfg := rfl
@[simp] theorem State.rejectSend_pp (s : State) : (s.rejectSend).pp = s.pp := rfl
@[simp] theorem State.rejectSend_pl (s : State) : (s.rejectSend).pl = s.pl := rfl
@[simp] theorem State.rejectSend_rb (s : State) : (s.rejectSend).rb = s.rb := rfl
@[simp] theorem State.rejectSend_tip (s : State) : (s.rejectSend).tip = s.tip := rfl
@[simp] theorem State.rejectSend_tx (s : State) : (s.rejectSend).tx = s.tx := rfl
@[simp] theorem State.rejectSend_txLen (s : State) : (s.rejectSend).txLen = s.txLen := rfl
@[simp] theorem State.rejectSend_rx (s : State) : (s.rejectSend).rx = s.rx := rfl
@[simp] theorem State.rejectSend_cntQueueDrop (s : State) : (s.rejectSend).cntQueueDrop = s.cntQueueDrop := rfl
@[simp] theorem State.rejectSend_fault (s : State) : (s.rejectSend).fault = s.fault := rfl
@[simp] theorem State.rejectSend_faultReason (s : State) : (s.rejectSend).faultReason = s.faultReason := rfl
@[simp] theorem State.rejectSend_push (s : State) : (s.rejectSend).push = s.push := rfl
@[simp] theorem State.rejectSend_pull (s : State) : (s.rejectSend).pull = s.pull := rfl
@[simp] theorem State.rejectSend_twoContexts (s : State) : (s.rejectSend).twoContexts = s.twoContexts := rfl
@[simp] theorem State.rejectSend_turn (s : State) : (s.rejectSend).turn = s.turn := rfl
@[simp] theorem State.rejectSend_resetPending (s : State) : (s.rejectSend).resetPending = s.resetPending := rfl
@[simp] theorem State.rejectSend_inputs (s : State) : (s.rejectSend).inputs = s.inputs := rfl
@[simp] theorem State.rejectSend_issuer (s : State) : (s.rejectSend).issuer = s.issuer := rfl

/-! ### `finishSend` -/

@[simp] theorem State.finishSend_cfg (s : State) (k : Nat) : (s.finishSend k).cfg = s.cfg := rfl
@[simp] theorem State.finishSend_pp (s : State) (k : Nat) : (s.finishSend k).pp = s.pp := rfl
@[simp] theorem State.finishSend_pl (s : State) (k : Nat) : (s.finishSend k).pl = s.pl := rfl
@[simp] theorem State.finishSend_rb (s : State) (k : Nat) : (s.finishSend k).rb = s.rb := rfl
@[simp] theorem State.finishSend_tip (s : State) (k : Nat) : (s.finishSend k).tip = s.tip := rfl
@[simp] theorem State.finishSend_tx (s : State) (k : Nat) : (s.finishSend k).tx = s.tx := rfl
@[simp] theorem State.finishSend_txLen (s : State) (k : Nat) : (s.finishSend k).txLen = s.txLen := rfl
@[simp] theorem State.finishSend_rx (s : State) (k : Nat) : (s.finishSend k).rx = s.rx := rfl
@[simp] theorem State.finishSend_cntSendReject (s : State) (k : Nat) : (s.finishSend k).cntSendReject = s.cntSendReject := rfl
@[simp] theorem State.finishSend_cntQueueDrop (s : State) (k : Nat) : (s.finishSend k).cntQueueDrop = s.cntQueueDrop := rfl
@[simp] theorem State.finishSend_fault (s : State) (k : Nat) : (s.finishSend k).fault = s.fault := rfl
@[simp] theorem State.finishSend_faultReason (s : State) (k : Nat) : (s.finishSend k).faultReason = s.faultReason := rfl
@[simp] theorem State.finishSend_push (s : State) (k : Nat) : (s.finishSend k).push = s.push := rfl
@[simp] theorem State.finishSend_pull (s : State) (k : Nat) : (s.finishSend k).pull = s.pull := rfl
@[simp] theorem State.finishSend_twoContexts (s : State) (k : Nat) : (s.finishSend k).twoContexts = s.twoContexts := rfl
@[simp] theorem State.finishSend_turn (s : State) (k : Nat) : (s.finishSend k).turn = s.turn := rfl
@[simp] theorem State.finishSend_resetPending (s : State) (k : Nat) : (s.finishSend k).resetPending = s.resetPending := rfl
@[simp] theorem State.finishSend_inputs (s : State) (k : Nat) : (s.finishSend k).inputs = s.inputs := rfl
@[simp] theorem State.finishSend_issuer (s : State) (k : Nat) : (s.finishSend k).issuer = s.issuer := rfl

/-! ### `finishFlush` -/

@[simp] theorem State.finishFlush_cfg (s : State) : (s.finishFlush).cfg = s.cfg := rfl
@[simp] theorem State.finishFlush_pp (s : State) : (s.finishFlush).pp = s.pp := rfl
@[simp] theorem State.finishFlush_pl (s : State) : (s.finishFlush).pl = s.pl := rfl
@[simp] theorem State.finishFlush_rb (s : State) : (s.finishFlush).rb = s.rb := rfl
@[simp] theorem State.finishFlush_tip (s : State) : (s.finishFlush).tip = s.tip := rfl
@[simp] theorem State.finishFlush_tx (s : State) : (s.finishFlush).tx = s.tx := rfl
@[simp] theorem State.finishFlush_txLen (s : State) : (s.finishFlush).txLen = s.txLen := rfl
@[simp] theorem State.finishFlush_rx (s : State) : (s.finishFlush).rx = s.rx := rfl
@[simp] theorem State.finishFlush_cntSendReject (s : State) : (s.finishFlush).cntSendReject = s.cntSendReject := rfl
@[simp] theorem State.finishFlush_cntQueueDrop (s : State) : (s.finishFlush).cntQueueDrop = s.cntQueueDrop := rfl
@[simp] theorem State.finishFlush_fault (s : State) : (s.finishFlush).fault = s.fault := rfl
@[simp] theorem State.finishFlush_faultReason (s : State) : (s.finishFlush).faultReason = s.faultReason := rfl
@[simp] theorem State.finishFlush_pull (s : State) : (s.finishFlush).pull = s.pull := rfl
@[simp] theorem State.finishFlush_twoContexts (s : State) : (s.finishFlush).twoContexts = s.twoContexts := rfl
@[simp] theorem State.finishFlush_turn (s : State) : (s.finishFlush).turn = s.turn := rfl
@[simp] theorem State.finishFlush_resetPending (s : State) : (s.finishFlush).resetPending = s.resetPending := rfl
@[simp] theorem State.finishFlush_inputs (s : State) : (s.finishFlush).inputs = s.inputs := rfl
@[simp] theorem State.finishFlush_issuer (s : State) : (s.finishFlush).issuer = s.issuer := rfl

/-! ### `receive` -/

@[simp] theorem State.receive_cfg (s : State) (bytes : List Byte) : (s.receive bytes).cfg = s.cfg := rfl
@[simp] theorem State.receive_pp (s : State) (bytes : List Byte) : (s.receive bytes).pp = s.pp := rfl
@[simp] theorem State.receive_pl (s : State) (bytes : List Byte) : (s.receive bytes).pl = s.pl := rfl
@[simp] theorem State.receive_rb (s : State) (bytes : List Byte) : (s.receive bytes).rb = s.rb := rfl
@[simp] theorem State.receive_tip (s : State) (bytes : List Byte) : (s.receive bytes).tip = s.tip := rfl
@[simp] theorem State.receive_tx (s : State) (bytes : List Byte) : (s.receive bytes).tx = s.tx := rfl
@[simp] theorem State.receive_txLen (s : State) (bytes : List Byte) : (s.receive bytes).txLen = s.txLen := rfl
@[simp] theorem State.receive_cntSendReject (s : State) (bytes : List Byte) : (s.receive bytes).cntSendReject = s.cntSendReject := rfl
@[simp] theorem State.receive_cntQueueDrop (s : State) (bytes : List Byte) : (s.receive bytes).cntQueueDrop = s.cntQueueDrop := rfl
@[simp] theorem State.receive_fault (s : State) (bytes : List Byte) : (s.receive bytes).fault = s.fault := rfl
@[simp] theorem State.receive_faultReason (s : State) (bytes : List Byte) : (s.receive bytes).faultReason = s.faultReason := rfl
@[simp] theorem State.receive_push (s : State) (bytes : List Byte) : (s.receive bytes).push = s.push := rfl
@[simp] theorem State.receive_pull (s : State) (bytes : List Byte) : (s.receive bytes).pull = s.pull := rfl
@[simp] theorem State.receive_twoContexts (s : State) (bytes : List Byte) : (s.receive bytes).twoContexts = s.twoContexts := rfl
@[simp] theorem State.receive_turn (s : State) (bytes : List Byte) : (s.receive bytes).turn = s.turn := rfl
@[simp] theorem State.receive_portP (s : State) (bytes : List Byte) : (s.receive bytes).portP = s.portP := rfl
@[simp] theorem State.receive_portC (s : State) (bytes : List Byte) : (s.receive bytes).portC = s.portC := rfl
@[simp] theorem State.receive_resetPending (s : State) (bytes : List Byte) : (s.receive bytes).resetPending = s.resetPending := rfl
@[simp] theorem State.receive_inputs (s : State) (bytes : List Byte) : (s.receive bytes).inputs = s.inputs := rfl
@[simp] theorem State.receive_issuer (s : State) (bytes : List Byte) : (s.receive bytes).issuer = s.issuer := rfl
@[simp] theorem State.receive_port (s : State) (bytes : List Byte) : (s.receive bytes).port = s.port := rfl

/-! ### `setCall` -/

@[simp] theorem State.setCall_cfg (s : State) (call : TransportCall) (returns : Bool) : (s.setCall call returns).cfg = s.cfg := by cases call <;> rfl
@[simp] theorem State.setCall_pp (s : State) (call : TransportCall) (returns : Bool) : (s.setCall call returns).pp = s.pp := by cases call <;> rfl
@[simp] theorem State.setCall_pl (s : State) (call : TransportCall) (returns : Bool) : (s.setCall call returns).pl = s.pl := by cases call <;> rfl
@[simp] theorem State.setCall_rb (s : State) (call : TransportCall) (returns : Bool) : (s.setCall call returns).rb = s.rb := by cases call <;> rfl
@[simp] theorem State.setCall_tip (s : State) (call : TransportCall) (returns : Bool) : (s.setCall call returns).tip = s.tip := by cases call <;> rfl
@[simp] theorem State.setCall_tx (s : State) (call : TransportCall) (returns : Bool) : (s.setCall call returns).tx = s.tx := by cases call <;> rfl
@[simp] theorem State.setCall_txLen (s : State) (call : TransportCall) (returns : Bool) : (s.setCall call returns).txLen = s.txLen := by cases call <;> rfl
@[simp] theorem State.setCall_rx (s : State) (call : TransportCall) (returns : Bool) : (s.setCall call returns).rx = s.rx := by cases call <;> rfl
@[simp] theorem State.setCall_cntSendReject (s : State) (call : TransportCall) (returns : Bool) : (s.setCall call returns).cntSendReject = s.cntSendReject := by cases call <;> rfl
@[simp] theorem State.setCall_cntQueueDrop (s : State) (call : TransportCall) (returns : Bool) : (s.setCall call returns).cntQueueDrop = s.cntQueueDrop := by cases call <;> rfl
@[simp] theorem State.setCall_fault (s : State) (call : TransportCall) (returns : Bool) : (s.setCall call returns).fault = s.fault := by cases call <;> rfl
@[simp] theorem State.setCall_faultReason (s : State) (call : TransportCall) (returns : Bool) : (s.setCall call returns).faultReason = s.faultReason := by cases call <;> rfl
@[simp] theorem State.setCall_twoContexts (s : State) (call : TransportCall) (returns : Bool) : (s.setCall call returns).twoContexts = s.twoContexts := by cases call <;> rfl
@[simp] theorem State.setCall_turn (s : State) (call : TransportCall) (returns : Bool) : (s.setCall call returns).turn = s.turn := by cases call <;> rfl
@[simp] theorem State.setCall_portP (s : State) (call : TransportCall) (returns : Bool) : (s.setCall call returns).portP = s.portP := by cases call <;> rfl
@[simp] theorem State.setCall_portC (s : State) (call : TransportCall) (returns : Bool) : (s.setCall call returns).portC = s.portC := by cases call <;> rfl
@[simp] theorem State.setCall_resetPending (s : State) (call : TransportCall) (returns : Bool) : (s.setCall call returns).resetPending = s.resetPending := by cases call <;> rfl
@[simp] theorem State.setCall_inputs (s : State) (call : TransportCall) (returns : Bool) : (s.setCall call returns).inputs = s.inputs := by cases call <;> rfl
@[simp] theorem State.setCall_issuer (s : State) (call : TransportCall) (returns : Bool) : (s.setCall call returns).issuer = s.issuer := by cases call <;> rfl
@[simp] theorem State.setCall_port (s : State) (call : TransportCall) (returns : Bool) : (s.setCall call returns).port = s.port := by cases call <;> rfl

/-! ### `queuedTransfer` -/

@[simp] theorem State.queuedTransfer_cfg (s : State) : s.queuedTransfer.cfg = s.cfg := rfl
@[simp] theorem State.queuedTransfer_pp (s : State) : s.queuedTransfer.pp = s.pp := rfl
@[simp] theorem State.queuedTransfer_pl (s : State) : s.queuedTransfer.pl = s.pl := rfl
@[simp] theorem State.queuedTransfer_rb (s : State) : s.queuedTransfer.rb = s.rb := rfl
@[simp] theorem State.queuedTransfer_tx (s : State) : s.queuedTransfer.tx = s.tx := rfl
@[simp] theorem State.queuedTransfer_txLen (s : State) : s.queuedTransfer.txLen = s.txLen := rfl
@[simp] theorem State.queuedTransfer_rx (s : State) : s.queuedTransfer.rx = s.rx := rfl
@[simp] theorem State.queuedTransfer_cntSendReject (s : State) : s.queuedTransfer.cntSendReject = s.cntSendReject := rfl
@[simp] theorem State.queuedTransfer_cntQueueDrop (s : State) : s.queuedTransfer.cntQueueDrop = s.cntQueueDrop := rfl
@[simp] theorem State.queuedTransfer_fault (s : State) : s.queuedTransfer.fault = s.fault := rfl
@[simp] theorem State.queuedTransfer_faultReason (s : State) : s.queuedTransfer.faultReason = s.faultReason := rfl
@[simp] theorem State.queuedTransfer_twoContexts (s : State) : s.queuedTransfer.twoContexts = s.twoContexts := rfl
@[simp] theorem State.queuedTransfer_turn (s : State) : s.queuedTransfer.turn = s.turn := rfl
@[simp] theorem State.queuedTransfer_portP (s : State) : s.queuedTransfer.portP = s.portP := rfl
@[simp] theorem State.queuedTransfer_portC (s : State) : s.queuedTransfer.portC = s.portC := rfl
@[simp] theorem State.queuedTransfer_resetPending (s : State) : s.queuedTransfer.resetPending = s.resetPending := rfl
@[simp] theorem State.queuedTransfer_inputs (s : State) : s.queuedTransfer.inputs = s.inputs := rfl
@[simp] theorem State.queuedTransfer_issuer (s : State) : s.queuedTransfer.issuer = s.issuer := rfl
@[simp] theorem State.queuedTransfer_port (s : State) : s.queuedTransfer.port = s.port := rfl
@[simp] theorem State.queuedTransfer_push (s : State) : s.queuedTransfer.push = s.push := rfl
@[simp] theorem State.queuedTransfer_tip (s : State) : s.queuedTransfer.tip = true := rfl

/-! ### The fields an update changes -/

@[simp] theorem State.setPort_port (s : State) (q : Port) : (s.setPort q).port = q := by
  simp only [State.port, State.setPort_issuer]
  unfold State.setPort State.withPort State.portOf
  cases s.issuer <;> rfl

@[simp] theorem State.setPort_self (s : State) : s.setPort s.port = s := by
  unfold State.setPort State.withPort State.port State.portOf
  cases s.issuer <;> rfl

@[simp] theorem State.setPort_setPort (s : State) (q r : Port) : (s.setPort q).setPort r = s.setPort r := by
  unfold State.setPort State.withPort State.issuer
  cases s.twoContexts <;> cases s.turn <;> rfl

@[simp] theorem State.withPort_portOf_self (s : State) (x : Context) (q : Port) : (s.withPort x q).portOf x = q := by
  cases x <;> rfl

theorem State.withPort_portOf_ne (s : State) {x y : Context} (h : y ≠ x) (q : Port) :
    (s.withPort x q).portOf y = s.portOf y := by
  cases x <;> cases y <;> first | rfl | exact absurd rfl h

@[simp] theorem State.setProgress_port (s : State) (g : Progress) :
    (s.setProgress g).port = { s.port with progress := g } := State.setPort_port s _

@[simp] theorem State.setStream_port (s : State) (rest : List Byte) :
    (s.setStream rest).port = { s.port with stream := rest } := State.setPort_port s _

@[simp] theorem State.respond_port (s : State) (st : Status) (b8 : Byte) (h16 : U16) (data : List Byte) :
    (s.respond st b8 h16 data).port = { s.port with
      progress := .idle
      responses := s.port.responses ++ [{ status := st, b8 := b8, h16 := h16, data := data }] } :=
  State.setPort_port s _

@[simp] theorem State.setProgress_respond (s : State) (g : Progress) (st : Status) (b8 : Byte) (h16 : U16)
    (data : List Byte) : (s.setProgress g).respond st b8 h16 data = s.respond st b8 h16 data := by
  unfold State.respond
  simp only [State.setProgress_port]
  exact State.setPort_setPort s _ _

@[simp] theorem State.setProgress_setProgress (s : State) (g h : Progress) :
    (s.setProgress g).setProgress h = s.setProgress h := by
  unfold State.setProgress
  rw [State.setPort_port, State.setPort_setPort]

/-- A command that stands where it stood. -/
theorem State.setProgress_self {s : State} {g : Progress} (h : s.port.progress = g) : s.setProgress g = s := by
  subst h
  exact State.setPort_self s

/-- SEND_PUSH changes the push transport and its port only. -/
theorem State.writeAndFlush_eq (s : State) (frame : List Byte) :
    ∃ push q, s.writeAndFlush frame = { s with push := push }.setPort q := by
  unfold State.writeAndFlush State.flush
  split_ifs <;> exact ⟨_, _, rfl⟩

@[simp] theorem State.raise_fault (s : State) (r : FaultReason) : (s.raise r).fault = true := rfl

@[simp] theorem State.raise_faultReason (s : State) (r : FaultReason) :
    (s.raise r).faultReason = if s.fault then s.faultReason else r.code := rfl

@[simp] theorem State.setParser_parser (s : State) (sel : ParserSel) (P : Parser) :
    (s.setParser sel P).parser sel = P := by cases sel <;> rfl

theorem State.setParser_parser_ne (s : State) {sel sel' : ParserSel} (h : sel' ≠ sel) (P : Parser) :
    (s.setParser sel P).parser sel' = s.parser sel' := by
  cases sel <;> cases sel' <;> first | rfl | exact absurd rfl h

@[simp] theorem State.countDrops_cntQueueDrop (s : State) (n : Nat) :
    (s.countDrops n).cntQueueDrop = s.cntQueueDrop + BitVec.ofNat 32 n := rfl

@[simp] theorem State.rejectSend_cntSendReject (s : State) : s.rejectSend.cntSendReject = s.cntSendReject + 1 := rfl

@[simp] theorem State.finishFlush_push (s : State) : s.finishFlush.push = s.push.flushed := rfl

@[simp] theorem State.receive_rx (s : State) (bytes : List Byte) :
    (s.receive bytes).rx = Memory.writeBytes s.rx 0 (bytes.take s.cfg.xferCap) := rfl

end Sys2Proof.Machine
end

