-- ==== Sys2Proof/Laws/Ops.lean ====
section
/-! SUPPORT. What the shared operations can do: one lemma each, which proofs cite in place of unfolding. -/

namespace Sys2Proof.Machine

/-! ### Outcomes -/

@[simp] theorem outcome_ok (s : State) : outcome (.ok s) = .next s := rfl

@[simp] theorem outcome_error (f : Fault) : outcome (.error f) = .fault f := rfl

theorem outcome_eq_next {r : Except Fault State} {t : State} : outcome r = .next t ↔ r = .ok t := by
  cases r <;> simp

theorem outcome_ne_refused {r : Except Fault State} {x : Refusal} : outcome r ≠ .refused x := by
  cases r <;> simp

/-- What a command whose checks come out right answers. -/
theorem guarded_of_accepted {i : Instr} {s : State} {body : Except Fault State} (hv : paramsValid s.cfg = true)
    (ha : s.admits i = true) : guarded i s body = outcome body := by
  simp [guarded, hv, ha]

/-- What a command can answer: the fault of a wrong context, or what its own rule gives. -/
theorem guarded_eq_next {i : Instr} {s t : State} {body : Except Fault State} (h : guarded i s body = .next t) :
    paramsValid s.cfg = true ∧
      (s.admits i = false ∧ t = s.raise .contextConflict ∨ s.admits i = true ∧ body = .ok t) := by
  unfold guarded at h
  split_ifs at h with hv ha
  · simp only [Host.Outcome.next.injEq] at h
    exact ⟨by simpa using hv, .inl ⟨ha, h.symm⟩⟩
  · exact ⟨by simpa using hv, .inr ⟨by simpa using ha, outcome_eq_next.1 h⟩⟩

/-- One context may issue every command (20_memory R77). -/
theorem admits_of_one {s : State} (h : s.twoContexts = false) (i : Instr) : s.admits i = true := by
  simp [State.admits, h]

/-! ### Bind -/

theorem except_bind_eq_ok {ε α β : Type} {x : Except ε α} {f : α → Except ε β} {b : β} :
    (x >>= f) = .ok b ↔ ∃ a, x = .ok a ∧ f a = .ok b := by
  cases x <;> simp [bind, Except.bind]

/-! ### Parameters -/

theorem rbCapValid_iff {cfg : Params} : rbCapValid cfg = true ↔ ∃ k, k < cfg.idxW ∧ cfg.rbCap = 2 ^ k := by
  simp [rbCapValid]

/-- The constraints of 70_reset R333 point 1, one by one. -/
theorem paramsValid_iff {cfg : Params} : paramsValid cfg = true ↔
    1 ≤ cfg.maxPayload ∧ cfg.maxPayload ≤ 65534 ∧ (∃ k, k < cfg.idxW ∧ cfg.rbCap = 2 ^ k) ∧ 1 ≤ cfg.align ∧
      1 ≤ cfg.xferCap ∧ cfg.xferCap % cfg.align = 0 ∧ cfg.xferCap ≤ 65535 := by
  simp [paramsValid, rbCapValid_iff, and_assoc]

/-- The capacity is positive, divides the index range and is at most half of it (00_scope R8, R9). -/
theorem rbCap_facts {cfg : Params} (h : paramsValid cfg = true) :
    0 < cfg.rbCap ∧ cfg.rbCap ∣ 2 ^ cfg.idxW ∧ 2 * cfg.rbCap ≤ 2 ^ cfg.idxW := by
  obtain ⟨-, -, ⟨k, hk, hc⟩, -⟩ := paramsValid_iff.1 h
  refine ⟨by rw [hc]; positivity, by rw [hc]; exact pow_dvd_pow 2 hk.le, ?_⟩
  rw [hc, ← pow_succ']
  exact Nat.pow_le_pow_right (by norm_num) hk

/-! ### Ring buffer -/

/-- What `rbPush` can answer (41_ring_buffer R162). -/
theorem rbPush_eq_ok {cfg : Params} {rb rb' : RingBuffer} {b : Byte} {pushed : Bool} :
    rbPush cfg rb b = .ok (pushed, rb') ↔
      rb.count cfg = cfg.rbCap ∧ pushed = false ∧ rb' = rb ∨
      rb.count cfg ≠ cfg.rbCap ∧ rb.head % cfg.rbCap < cfg.rbCap ∧ pushed = true ∧
        rb' = { rb with
          mem := Memory.write rb.mem (rb.head % cfg.rbCap) b
          head := (rb.head + 1) % 2 ^ cfg.idxW } := by
  unfold rbPush
  split_ifs with h
  · simp [h, eq_comm]
  · simp only [except_bind_eq_ok, memWrite_eq_ok]
    constructor
    · rintro ⟨m, ⟨h1, rfl⟩, h2⟩
      simp only [Except.ok.injEq, Prod.mk.injEq] at h2
      exact .inr ⟨h, h1, h2.1.symm, h2.2.symm⟩
    · rintro (⟨h1, -⟩ | ⟨-, h1, rfl, rfl⟩)
      · exact absurd h1 h
      · exact ⟨_, ⟨h1, rfl⟩, rfl⟩

/-- What `rbPop` can answer (41_ring_buffer R163). -/
theorem rbPop_eq_ok {cfg : Params} {rb rb' : RingBuffer} {popped : Option Byte} :
    rbPop cfg rb = .ok (popped, rb') ↔
      rb.head = rb.tail ∧ popped = none ∧ rb' = rb ∨
      rb.head ≠ rb.tail ∧ rb.tail % cfg.rbCap < cfg.rbCap ∧
        popped = some (Memory.read rb.mem (rb.tail % cfg.rbCap)) ∧
        rb' = { rb with tail := (rb.tail + 1) % 2 ^ cfg.idxW } := by
  unfold rbPop
  split_ifs with h
  · simp [h, eq_comm]
  · simp only [except_bind_eq_ok, memRead_eq_ok]
    constructor
    · rintro ⟨m, ⟨h1, rfl⟩, h2⟩
      simp only [Except.ok.injEq, Prod.mk.injEq] at h2
      exact .inr ⟨h, h1, h2.1.symm, h2.2.symm⟩
    · rintro (⟨h1, -⟩ | ⟨-, h1, rfl, rfl⟩)
      · exact absurd h1 h
      · exact ⟨_, ⟨h1, rfl⟩, rfl⟩

/-! ### Frame parser -/

/-- What `crcHiByte` can answer (42_frame_parser R189). -/
theorem crcHiByte_eq_ok {cfg : Params} {P Q : Parser} {b : Byte} {done : Bool} :
    P.crcHiByte cfg b = .ok (Q, done) ↔
      (P.len - 1).toNat ≤ cfg.maxPayload ∧
      (if u16Of P.crclo b = crc16 cfg.crcProfile P.id (Memory.readPrefix P.acc (P.len - 1).toNat) then
        done = true ∧ Q = { P with
          ps := .seek1
          frmId := P.id
          frmLen := P.len - 1
          frmPayload := Memory.writeBytes P.frmPayload 0 (Memory.readPrefix P.acc (P.len - 1).toNat)
          frmValid := true }
      else done = false ∧ Q = { P with ps := .seek1 }) := by
  unfold Parser.crcHiByte
  simp only [except_bind_eq_ok, memReadPrefix_eq_ok]
  constructor
  · rintro ⟨l, ⟨h1, rfl⟩, h2⟩
    refine ⟨h1, ?_⟩
    split_ifs at h2 ⊢ with hc
    · obtain ⟨m, hm, h3⟩ := except_bind_eq_ok.1 h2
      obtain ⟨-, rfl⟩ := memWriteBytes_eq_ok.1 hm
      simp only [Except.ok.injEq, Prod.mk.injEq] at h3
      exact ⟨h3.2.symm, h3.1.symm⟩
    · simp only [Except.ok.injEq, Prod.mk.injEq] at h2
      exact ⟨h2.2.symm, h2.1.symm⟩
  · rintro ⟨h1, h2⟩
    refine ⟨_, ⟨h1, rfl⟩, ?_⟩
    split_ifs at h2 ⊢ with hc
    · obtain ⟨rfl, rfl⟩ := h2
      exact except_bind_eq_ok.2 ⟨_, memWriteBytes_eq_ok.2 ⟨by simpa using h1, rfl⟩, rfl⟩
    · obtain ⟨rfl, rfl⟩ := h2
      rfl

/-- What `payloadByte` can answer (42_frame_parser R187). -/
theorem payloadByte_eq_ok {cfg : Params} {P Q : Parser} {b : Byte} :
    P.payloadByte cfg b = .ok Q ↔ P.idx.toNat < cfg.maxPayload ∧
      Q = { P with
        acc := Memory.write P.acc P.idx.toNat b
        idx := P.idx + 1
        ps := if P.idx + 1 = P.len - 1 then .crcLo else .payload } := by
  unfold Parser.payloadByte
  simp only [except_bind_eq_ok, memWrite_eq_ok]
  constructor
  · rintro ⟨m, ⟨h1, rfl⟩, h2⟩
    simp only [Except.ok.injEq] at h2
    exact ⟨h1, h2.symm⟩
  · rintro ⟨h1, rfl⟩
    exact ⟨_, ⟨h1, rfl⟩, rfl⟩

/-- What `processByte` can answer, by parser state (42_frame_parser R181). -/
theorem processByte_cases {cfg : Params} {P Q : Parser} {b : Byte} {done : Bool}
    (h : P.processByte cfg b = .ok (Q, done)) :
    P.ps = .seek1 ∧ done = false ∧ Q = P.seek1Byte b ∨
    P.ps = .seek2 ∧ done = false ∧ Q = P.seek2Byte cfg b ∨
    P.ps = .lenLo ∧ done = false ∧ Q = P.lenLoByte b ∨
    P.ps = .lenHi ∧ done = false ∧ Q = P.lenHiByte cfg b ∨
    P.ps = .id ∧ done = false ∧ Q = P.idByte b ∨
    P.ps = .payload ∧ done = false ∧ P.payloadByte cfg b = .ok Q ∨
    P.ps = .crcLo ∧ done = false ∧ Q = P.crcLoByte b ∨
    P.ps = .crcHi ∧ P.crcHiByte cfg b = .ok (Q, done) := by
  unfold Parser.processByte at h
  split at h
  case h_6 heq =>
    obtain ⟨R, hR, h2⟩ := except_bind_eq_ok.1 h
    simp only [Except.ok.injEq, Prod.mk.injEq] at h2
    obtain ⟨rfl, rfl⟩ := h2
    simp [heq, hR]
  all_goals simp_all [eq_comm]

/-- What `frame` can answer (10_state R40). -/
theorem frame_eq_ok {cfg : Params} {P : Parser} {f : Frame} :
    P.frame cfg = .ok f ↔ P.frmLen.toNat ≤ cfg.maxPayload ∧
      f = { id := P.frmId, len := P.frmLen, payload := Memory.readPrefix P.frmPayload P.frmLen.toNat } := by
  unfold Parser.frame
  simp only [except_bind_eq_ok, memReadPrefix_eq_ok]
  constructor
  · rintro ⟨l, ⟨h1, rfl⟩, h2⟩
    simp only [Except.ok.injEq] at h2
    exact ⟨h1, h2.symm⟩
  · rintro ⟨h1, rfl⟩
    exact ⟨_, ⟨h1, rfl⟩, rfl⟩

/-- What feeding one byte and then more can answer. -/
theorem feed_cons_eq_ok {cfg : Params} {P R : Parser} {b : Byte} {t : List Byte} {frames : List Frame} :
    P.feed cfg (b :: t) = .ok (R, frames) ↔ ∃ Q done, P.processByte cfg b = .ok (Q, done) ∧
      (done = false ∧ Q.feed cfg t = .ok (R, frames) ∨
       done = true ∧ ∃ f fs, Q.frame cfg = .ok f ∧ Q.feed cfg t = .ok (R, fs) ∧ frames = f :: fs) := by
  rw [Parser.feed, except_bind_eq_ok]
  constructor
  · rintro ⟨⟨Q, done⟩, h1, h2⟩
    refine ⟨Q, done, h1, ?_⟩
    cases done
    · exact .inl ⟨rfl, by simpa using h2⟩
    · simp only [if_true] at h2
      obtain ⟨f, hf, h3⟩ := except_bind_eq_ok.1 h2
      obtain ⟨⟨R', fs⟩, hr, h4⟩ := except_bind_eq_ok.1 h3
      simp only [Except.ok.injEq, Prod.mk.injEq] at h4
      obtain ⟨rfl, rfl⟩ := h4
      exact .inr ⟨rfl, f, fs, hf, hr, rfl⟩
  · rintro ⟨Q, done, h1, ⟨rfl, h2⟩ | ⟨rfl, f, fs, hf, hr, rfl⟩⟩
    · exact ⟨(Q, false), h1, by simpa using h2⟩
    · refine ⟨(Q, true), h1, ?_⟩
      simp only [if_true]
      exact except_bind_eq_ok.2 ⟨f, hf, except_bind_eq_ok.2 ⟨(R, fs), hr, rfl⟩⟩

/-! ### Encoder and scheduler -/

/-- What one ring-buffer access of SEND_QUEUE can answer (43_frame_encoder R213, R216). -/
theorem pushOne_eq_ok {b : Byte} {after k k' : Nat} {s t : State} {more : Bool} :
    pushOne b after k s = .ok (t, k', more) ↔ ∃ pushed rb, rbPush s.cfg s.rb b = .ok (pushed, rb) ∧
      (pushed = true ∧ t = { s with rb := rb } ∧ k' = k + 1 ∧ more = true ∨
       pushed = false ∧ s.cfg.queueOnFull = .stop ∧ t = s.countDrops (1 + after) ∧ k' = k ∧ more = false ∨
       pushed = false ∧ s.cfg.queueOnFull = .goOn ∧ t = s.countDrops 1 ∧ k' = k ∧ more = true) := by
  unfold pushOne
  rw [except_bind_eq_ok]
  constructor
  · rintro ⟨⟨pushed, rb⟩, h1, h2⟩
    refine ⟨pushed, rb, h1, ?_⟩
    cases pushed <;> cases hq : s.cfg.queueOnFull <;> simp_all [eq_comm]
  · rintro ⟨pushed, rb, h1, h2⟩
    refine ⟨(pushed, rb), h1, ?_⟩
    rcases h2 with ⟨rfl, rfl, rfl, rfl⟩ | ⟨rfl, hq, rfl, rfl, rfl⟩ | ⟨rfl, hq, rfl, rfl, rfl⟩ <;> simp_all

/-- What one ring-buffer access of a scheduling pass can answer (44_pull_bus_scheduler R234). -/
theorem fillOne_eq_ok {m m' : Nat} {s t : State} {more : Bool} :
    fillOne m s = .ok (t, m', more) ↔ ∃ popped rb, rbPop s.cfg s.rb = .ok (popped, rb) ∧
      (popped = none ∧ t = s ∧ m' = m ∧ more = false ∨
       ∃ b, popped = some b ∧ m < s.cfg.xferCap ∧
        t = { s with rb := rb, tx := Memory.write s.tx m b } ∧ m' = m + 1 ∧
        more = decide (m + 1 < s.cfg.xferCap)) := by
  unfold fillOne
  rw [except_bind_eq_ok]
  constructor
  · rintro ⟨⟨popped, rb⟩, h1, h2⟩
    refine ⟨popped, rb, h1, ?_⟩
    cases popped with
    | none => simp_all [eq_comm]
    | some b =>
      obtain ⟨tx, htx, h3⟩ := except_bind_eq_ok.1 h2
      obtain ⟨hm, rfl⟩ := memWrite_eq_ok.1 htx
      simp only [Except.ok.injEq, Prod.mk.injEq] at h3
      exact .inr ⟨b, rfl, hm, h3.1.symm, h3.2.1.symm, h3.2.2.symm⟩
  · rintro ⟨popped, rb, h1, h2⟩
    refine ⟨(popped, rb), h1, ?_⟩
    rcases h2 with ⟨rfl, rfl, rfl, rfl⟩ | ⟨b, rfl, hm, rfl, rfl, rfl⟩
    · rfl
    · exact except_bind_eq_ok.2 ⟨_, memWrite_eq_ok.2 ⟨hm, rfl⟩, rfl⟩

/-- What the padding can answer (44_pull_bus_scheduler R236, R237). -/
theorem pad_eq_ok {m : Nat} {s t : State} : pad m s = .ok t ↔
    m + (transferLength s.cfg m - m) ≤ s.cfg.xferCap ∧
    t = { s with
      tx := Memory.writeBytes s.tx m (List.replicate (transferLength s.cfg m - m) filler)
      txLen := BitVec.ofNat 16 (transferLength s.cfg m) } := by
  unfold pad
  simp only [except_bind_eq_ok, memWriteBytes_eq_ok, List.length_replicate]
  constructor
  · rintro ⟨tx, ⟨h1, rfl⟩, h3⟩
    simp only [Except.ok.injEq] at h3
    exact ⟨h1, h3.symm⟩
  · rintro ⟨h1, rfl⟩
    exact ⟨_, ⟨h1, rfl⟩, rfl⟩

/-- What queueing the transfer can answer (44_pull_bus_scheduler R237, 60_exceptions R315). -/
theorem queueTransfer_eq_ok {pass : Pass} {finish : AfterPass} {frames : List Frame} {s t : State} :
    queueTransfer pass finish frames s = .ok t ↔
      s.pull.queueReturns = true ∧ s.txLen.toNat ≤ s.cfg.xferCap ∧ finish frames true s.queuedTransfer = .ok t ∨
      s.pull.queueReturns = false ∧ t = s.setProgress (.queueing pass frames) := by
  unfold queueTransfer
  cases s.pull.queueReturns
  · simp [eq_comm]
  · simp only [if_true, except_bind_eq_ok, memReadPrefix_eq_ok, true_and, Bool.true_eq_false, false_and, or_false]
    constructor
    · rintro ⟨bytes, ⟨h1, rfl⟩, h2⟩
      exact ⟨h1, h2⟩
    · rintro ⟨h1, h2⟩
      exact ⟨_, ⟨h1, rfl⟩, h2⟩

/-- What arming can answer: the padding, and then the queueing. -/
theorem arm_eq_ok {pass : Pass} {finish : AfterPass} {frames : List Frame} {m : Nat} {s t : State} :
    arm pass finish frames m s = .ok t ↔ ∃ u, pad m s = .ok u ∧ queueTransfer pass finish frames u = .ok t :=
  except_bind_eq_ok

/-- What one atomic step of filling can answer (20_memory R76). -/
theorem fillStep_eq_ok {pass : Pass} {finish : AfterPass} {frames : List Frame} {m : Nat} {s t : State} :
    fillStep pass finish frames m s = .ok t ↔ ∃ u m' more, fillOne m s = .ok (u, m', more) ∧
      (more = true ∧ t = u.setProgress (.filling pass frames m') ∨
       more = false ∧ arm pass finish frames m' u = .ok t) := by
  unfold fillStep
  rw [except_bind_eq_ok]
  constructor
  · rintro ⟨⟨u, m', more⟩, h1, h2⟩
    refine ⟨u, m', more, h1, ?_⟩
    cases more <;> simp_all [eq_comm]
  · rintro ⟨u, m', more, h1, ⟨rfl, rfl⟩ | ⟨rfl, h2⟩⟩
    · exact ⟨(u, m', true), h1, rfl⟩
    · exact ⟨(u, m', false), h1, by simpa using h2⟩

/-- What the drain can answer (44_pull_bus_scheduler R232). -/
theorem drain_eq_ok {c r : Nat} {s t : State} {frames : List Frame} : drain c r s = .ok (t, frames) ↔
    c ≠ 1 ∧ t = s ∧ frames = [] ∨
    c = 1 ∧ r ≤ s.cfg.xferCap ∧ ∃ P, s.pl.feed s.cfg (Memory.readPrefix s.rx r) = .ok (P, frames) ∧
      t = { s with pl := P, tip := false } := by
  unfold drain
  split_ifs with hc
  · simp only [except_bind_eq_ok, memReadPrefix_eq_ok]
    constructor
    · rintro ⟨l, ⟨h1, rfl⟩, ⟨P, fs⟩, h2, h3⟩
      simp only [Except.ok.injEq, Prod.mk.injEq] at h3
      obtain ⟨rfl, rfl⟩ := h3
      exact .inr ⟨hc, h1, P, h2, rfl⟩
    · rintro (⟨h, -⟩ | ⟨-, h1, P, h2, rfl⟩)
      · exact absurd hc h
      · exact ⟨_, ⟨h1, rfl⟩, (P, frames), h2, rfl⟩
  · simp [hc, eq_comm]

/-- What a scheduling pass can answer once its `PullPoll` has returned (44_pull_bus_scheduler R230). -/
theorem passAfterPoll_eq_ok {pass : Pass} {finish : AfterPass} {s t : State} :
    passAfterPoll pass finish s = .ok t ↔
    (∃ reason, reportFault s.tip s.txLen.toNat s.pull.completed s.pull.rxCount s.pull.inFlight = some reason ∧
      t = { s with pull := s.pull.polled }.raise reason) ∨
    (reportFault s.tip s.txLen.toNat s.pull.completed s.pull.rxCount s.pull.inFlight = none ∧
      ∃ u frames, drain s.pull.completed s.pull.rxCount { s with pull := s.pull.polled } = .ok (u, frames) ∧
        (s.pull.inFlight = 0 ∧ fillAndArm pass finish frames u = .ok t ∨
         s.pull.inFlight ≠ 0 ∧ finish frames false u = .ok t)) := by
  unfold passAfterPoll
  dsimp only
  split
  · next reason h => simp [h, eq_comm]
  · next h =>
    simp only [h, except_bind_eq_ok]
    constructor
    · rintro ⟨⟨u, frames⟩, h1, h2⟩
      refine .inr ⟨trivial, u, frames, h1, ?_⟩
      split_ifs at h2 with hf
      · exact .inl ⟨hf, h2⟩
      · exact .inr ⟨hf, h2⟩
    · rintro (⟨_, h, -⟩ | ⟨-, u, frames, h1, ⟨hf, h2⟩ | ⟨hf, h2⟩⟩)
      · cases h
      · exact ⟨(u, frames), h1, by simpa [hf] using h2⟩
      · exact ⟨(u, frames), h1, by simpa [hf] using h2⟩

/-- What a scheduling pass can answer (44_pull_bus_scheduler R230, 60_exceptions R315). -/
theorem schedPass_eq_ok {pass : Pass} {finish : AfterPass} {s t : State} :
    schedPass pass finish s = .ok t ↔
      s.pull.pollReturns = true ∧ passAfterPoll pass finish s = .ok t ∨
      s.pull.pollReturns = false ∧ t = s.setProgress (.polling pass) := by
  unfold schedPass
  cases s.pull.pollReturns <;> simp [eq_comm]

/-- What the push phase and the response after it can answer (45_router R263, R267; 60_exceptions R315). -/
theorem readPush_eq_ok {k used : Nat} {armed : Bool} {events : List RouterEvent} {s t : State} :
    readPush k used armed events s = .ok t ↔ ∃ r, pushPhase s.cfg k s.pp s.push = .ok r ∧
      ((∃ left, r.stuck = some left ∧ t = { s with pp := r.parser, push := r.transport }.setProgress
          (.reading left (used + r.used) armed (events ++ r.events))) ∨
       r.stuck = none ∧ t = { s with pp := r.parser, push := r.transport }.respond (Status.ofBool r.found)
          (armedByte armed) (BitVec.ofNat 16 (used + r.used)) (eventRecords (events ++ r.events))) := by
  unfold readPush
  rw [except_bind_eq_ok]
  refine exists_congr fun r => and_congr_right fun _ => ?_
  cases h : r.stuck <;> simp [eq_comm]

/-- What ROUTER_PASS can answer from its `PushAvailable` on (45_router R265, 60_exceptions R315). -/
theorem countPush_eq_ok {armed : Bool} {events : List RouterEvent} {s t : State} :
    countPush armed events s = .ok t ↔
      s.push.availableReturns = true ∧ readPush s.push.available 0 armed events s = .ok t ∨
      s.push.availableReturns = false ∧ t = s.setProgress (.counting armed events) := by
  unfold countPush
  cases s.push.availableReturns <;> simp [eq_comm]

/-- What the end of a routing pass can answer (45_router R263). -/
theorem finishRouter_eq_ok {frames : List Frame} {armed : Bool} {s t : State} :
    finishRouter frames armed s = .ok t ↔
    (pullPhase s.cfg frames).2 = true ∧
      t = s.respond .ok (armedByte armed) 0 (eventRecords (pullPhase s.cfg frames).1) ∨
    (pullPhase s.cfg frames).2 = false ∧ countPush armed (pullPhase s.cfg frames).1 s = .ok t := by
  unfold finishRouter
  dsimp only
  cases hf : (pullPhase s.cfg frames).2 <;> simp [eq_comm]

/-! ### The sequencer -/

/-- The four things a context's turn can be (20_memory R76, 30_encoding R102, R114, 70_reset R330). -/
theorem takeTurn_cases (s : State) :
    s.port.isIdle = false ∧ takeTurn s = outcome (resume s) ∨
    s.port.isIdle = true ∧ s.resetPending = true ∧ (takeTurn s = .next s ∨ takeTurn s = .next s.blockReset) ∨
    s.port.isIdle = true ∧ s.resetPending = false ∧
      (decode s.port.stream = .error .truncated ∧ takeTurn s = .next s ∨
       (∃ why, decode s.port.stream = .error (.illegal why) ∧
        takeTurn s = .next (s.setStream (s.port.stream.drop 4)).answerIllegal) ∨
       ∃ i rest, decode s.port.stream = .ok (i, rest) ∧ takeTurn s = exec i (s.setStream rest)) := by
  unfold takeTurn nextAction
  cases h : s.port.isIdle
  · exact .inl ⟨rfl, rfl⟩
  · cases hr : s.resetPending
    · refine .inr (.inr ⟨rfl, rfl, ?_⟩)
      simp only [Bool.true_eq_false, if_false, Bool.false_eq_true]
      unfold fetch
      rcases hd : decode s.port.stream with e | ⟨i, rest⟩
      · cases e with
        | truncated => exact .inl ⟨rfl, rfl⟩
        | illegal why => exact .inr (.inl ⟨why, rfl, rfl⟩)
      · exact .inr (.inr ⟨i, rest, rfl, rfl⟩)
    · refine .inr (.inl ⟨rfl, rfl, ?_⟩)
      simp only [Bool.true_eq_false, if_false, if_true]
      split_ifs
      · exact .inr rfl
      · exact .inl rfl

/-- What a step is: a context's turn, or an act of the outside. -/
theorem step_cases {s : State} (hv : paramsValid s.cfg = true) :
    s.inputs = [] ∧ step s = takeTurn s ∨
    (∃ x rest, s.inputs = .turn x :: rest ∧ step s = takeTurn { s with turn := x, inputs := rest }) ∨
    (∃ i rest, s.inputs = i :: rest ∧ (∀ x, i ≠ .turn x) ∧
      step s = .next ({ s with inputs := rest }.applyInput i)) := by
  unfold step
  rw [if_neg (by simp [hv])]
  cases hi : s.inputs with
  | nil => exact .inl ⟨rfl, rfl⟩
  | cons i rest =>
    cases i with
    | turn x => exact .inr (.inl ⟨x, rest, rfl, rfl⟩)
    | _ => exact .inr (.inr ⟨_, rest, rfl, by simp, rfl⟩)

/-- A step in which a context has the turn is that context's turn. -/
theorem step_of_turnedTo {s u : State} (hv : paramsValid s.cfg = true) (h : s.turnedTo u) : step s = takeTurn u := by
  unfold step
  rw [if_neg (by simp [hv])]
  rcases h with ⟨hi, rfl⟩ | ⟨x, later, hi, rfl⟩ <;> rw [hi]

theorem cfg_of_turnedTo {s u : State} (h : s.turnedTo u) : u.cfg = s.cfg := by
  rcases h with ⟨-, rfl⟩ | ⟨x, later, -, rfl⟩ <;> rfl

/-- A context with no command in progress, and no reset waiting, takes its next command, or waits for all of it. -/
theorem takeTurn_of_idle {u : State} (h : u.port.progress = .idle) (hr : u.resetPending = false) :
    takeTurn u = (match decode u.port.stream with
      | .ok (i, rest) => exec i (u.setStream rest)
      | .error (.illegal _) => .next (u.setStream (u.port.stream.drop 4)).answerIllegal
      | .error .truncated => .next u) := by
  have hp : u.port.isIdle = true := by simp [Port.isIdle, h]
  rcases takeTurn_cases u with ⟨h1, -⟩ | ⟨-, h1, -⟩ | ⟨-, -, ⟨hd, e⟩ | ⟨why, hd, e⟩ | ⟨i, rest, hd, e⟩⟩
  · simp [hp] at h1
  · simp [hr] at h1
  all_goals rw [e, hd]

/-- A context with a command in progress goes on with it. -/
theorem takeTurn_of_progress {u : State} (h : u.port.progress ≠ .idle) : takeTurn u = outcome (resume u) := by
  have hp : u.port.isIdle = false := by simp [Port.isIdle, h]
  unfold takeTurn nextAction
  simp [hp]

end Sys2Proof.Machine
end

