-- ==== Sys2Proof/Laws/Frames.lean ====
section
/-! SUPPORT. What the larger operations and the commands can leave behind: one lemma each, from which proofs take the
frame of a command in place of unfolding it. -/

namespace Sys2Proof.Machine

/-- What a push leaves of the ring buffer: `tail` always, all of it where it fails. -/
theorem rbPush_frame {cfg : Params} {rb rb' : RingBuffer} {b : Byte} {pushed : Bool}
    (h : rbPush cfg rb b = .ok (pushed, rb')) : rb'.tail = rb.tail ∧ (pushed = false → rb' = rb) := by
  rcases rbPush_eq_ok.1 h with ⟨-, rfl, rfl⟩ | ⟨-, -, rfl, rfl⟩ <;> simp

/-- What a pop leaves of the ring buffer: all but `tail`, and that too where it fails. -/
theorem rbPop_frame {cfg : Params} {rb rb' : RingBuffer} {x : Option Byte}
    (h : rbPop cfg rb = .ok (x, rb')) : (∃ tail, rb' = { rb with tail := tail }) ∧ (x = none → rb' = rb) := by
  rcases rbPop_eq_ok.1 h with ⟨-, rfl, rfl⟩ | ⟨-, -, rfl, rfl⟩
  · exact ⟨⟨_, rfl⟩, fun _ => rfl⟩
  · exact ⟨⟨_, rfl⟩, fun h => by cases h⟩

/-- One push of SEND_QUEUE changes the ring buffer's bytes and `head`, and the drop counter. -/
theorem pushOne_frame {b : Byte} {after k k' : Nat} {s t : State} {more : Bool}
    (h : pushOne b after k s = .ok (t, k', more)) :
    ∃ rb drop, rb.tail = s.rb.tail ∧ t = { s with rb := rb, cntQueueDrop := drop } := by
  obtain ⟨pushed, rb, h1, ⟨rfl, rfl, -⟩ | ⟨rfl, -, rfl, -⟩ | ⟨rfl, -, rfl, -⟩⟩ := pushOne_eq_ok.1 h
  · exact ⟨rb, s.cntQueueDrop, (rbPush_frame h1).1, rfl⟩
  · exact ⟨s.rb, _, rfl, rfl⟩
  · exact ⟨s.rb, _, rfl, rfl⟩

/-- SEND_QUEUE run to its end: the ring buffer, the drop counter, and one response. -/
theorem enqueueAll_frame {bytes : List Byte} {k : Nat} {s t : State} (h : enqueueAll bytes k s = .ok t) :
    ∃ rb drop k', rb.tail = s.rb.tail ∧ t = { s with rb := rb, cntQueueDrop := drop }.finishSend k' := by
  induction bytes generalizing k s with
  | nil =>
    simp only [enqueueAll, Except.ok.injEq] at h
    exact ⟨s.rb, s.cntQueueDrop, k, rfl, h.symm⟩
  | cons b rest ih =>
    obtain ⟨⟨u, k', more⟩, h1, h2⟩ := except_bind_eq_ok.1 h
    obtain ⟨rb, drop, htail, rfl⟩ := pushOne_frame h1
    cases more
    · simp only [Bool.false_eq_true, if_false, Except.ok.injEq] at h2
      exact ⟨rb, drop, k', htail, h2.symm⟩
    · obtain ⟨rb', drop', k'', ht', rfl⟩ := ih (by simpa using h2)
      exact ⟨rb', drop', k'', ht'.trans htail, rfl⟩

/-- One atomic step of SEND_QUEUE: it ends, or has bytes left to push. -/
theorem enqueueStep_frame {rest : List Byte} {k : Nat} {s t : State} (h : enqueueStep rest k s = .ok t) :
    ∃ rb drop, rb.tail = s.rb.tail ∧ ((∃ k', t = { s with rb := rb, cntQueueDrop := drop }.finishSend k') ∨
      ∃ rest' k', rest' ≠ [] ∧ t = { s with rb := rb, cntQueueDrop := drop }.setProgress (.sending rest' k')) := by
  cases rest with
  | nil =>
    simp only [enqueueStep, Except.ok.injEq] at h
    exact ⟨s.rb, s.cntQueueDrop, rfl, .inl ⟨k, h.symm⟩⟩
  | cons b rest =>
    obtain ⟨⟨u, k', more⟩, h1, h2⟩ := except_bind_eq_ok.1 h
    obtain ⟨rb, drop, htail, rfl⟩ := pushOne_frame h1
    dsimp only at h2
    split_ifs at h2 with hm
    · simp only [Except.ok.injEq] at h2
      exact ⟨rb, drop, htail, .inr ⟨rest, k', by rintro rfl; simp at hm, h2.symm⟩⟩
    · simp only [Except.ok.injEq] at h2
      exact ⟨rb, drop, htail, .inl ⟨k', h2.symm⟩⟩

/-- One pop of a scheduling pass changes the ring buffer's `tail` and `tx`. -/
theorem fillOne_frame {m m' : Nat} {s t : State} {more : Bool} (h : fillOne m s = .ok (t, m', more)) :
    ∃ tail tx, t = { s with rb := { s.rb with tail := tail }, tx := tx } := by
  obtain ⟨popped, rb, h1, ⟨-, rfl, -⟩ | ⟨b, rfl, -, rfl, -⟩⟩ := fillOne_eq_ok.1 h
  · exact ⟨t.rb.tail, t.tx, rfl⟩
  · obtain ⟨⟨tail, rfl⟩, -⟩ := rbPop_frame h1
    exact ⟨tail, _, rfl⟩

/-- The pops of a scheduling pass change the ring buffer's `tail` and `tx`. -/
theorem fillAll_frame {fuel m m' : Nat} {s t : State} (h : fillAll fuel m s = .ok (t, m')) :
    ∃ tail tx, t = { s with rb := { s.rb with tail := tail }, tx := tx } := by
  induction fuel generalizing m s with
  | zero =>
    simp only [fillAll, Except.ok.injEq, Prod.mk.injEq] at h
    obtain ⟨rfl, rfl⟩ := h
    exact ⟨s.rb.tail, s.tx, rfl⟩
  | succ n ih =>
    obtain ⟨⟨u, k', more⟩, h1, h2⟩ := except_bind_eq_ok.1 h
    obtain ⟨tail, tx, rfl⟩ := fillOne_frame h1
    cases more
    · simp only [Bool.false_eq_true, if_false, Except.ok.injEq, Prod.mk.injEq] at h2
      obtain ⟨rfl, rfl⟩ := h2
      exact ⟨tail, tx, rfl⟩
    · obtain ⟨tail', tx', rfl⟩ := ih (by simpa using h2)
      exact ⟨tail', tx', rfl⟩

/-- The padding changes `tx` and `tx_len`. -/
theorem pad_frame {m : Nat} {s t : State} (h : pad m s = .ok t) :
    ∃ tx txLen, t = { s with tx := tx, txLen := txLen } := by
  obtain ⟨-, rfl⟩ := pad_eq_ok.1 h
  exact ⟨_, _, rfl⟩

/-- `t` is `u` after the end of PULL_POLL or ROUTER_PASS with this RB8, or with ROUTER_PASS inside a call of the push
transport that has not returned. -/
def EndsOrWaits (u t : State) (b8 : Byte) : Prop :=
  (∃ st h16 data, t = u.respond st b8 h16 data) ∨ (∃ armed events, t = u.setProgress (.counting armed events)) ∨
    ∃ k used armed events, t = u.setProgress (.reading k used armed events)

/-- Either way only the port of the issuing context changes. -/
theorem EndsOrWaits.setPort {u t : State} {b8 : Byte} (h : EndsOrWaits u t b8) : ∃ q, t = u.setPort q := by
  rcases h with ⟨_, _, _, rfl⟩ | ⟨_, _, rfl⟩ | ⟨_, _, _, _, rfl⟩ <;> exact ⟨_, rfl⟩

/-- What PULL_POLL and ROUTER_PASS do after their scheduling pass: `PP` and the push transport, and the end of the
command. -/
theorem afterPass_frame {pass : Pass} {frames : List Frame} {armed : Bool} {s t : State}
    (h : afterPass pass frames armed s = .ok t) :
    ∃ pp push, EndsOrWaits { s with pp := pp, push := push } t (armedByte armed) := by
  have read {k used : Nat} {events : List RouterEvent} (h : readPush k used armed events s = .ok t) :
      ∃ pp push, EndsOrWaits { s with pp := pp, push := push } t (armedByte armed) := by
    obtain ⟨r, -, ⟨left, -, rfl⟩ | ⟨-, rfl⟩⟩ := readPush_eq_ok.1 h
    · exact ⟨r.parser, r.transport, .inr (.inr ⟨_, _, _, _, rfl⟩)⟩
    · exact ⟨r.parser, r.transport, .inl ⟨_, _, _, rfl⟩⟩
  cases pass with
  | poll =>
    simp only [afterPass, finishPoll, Except.ok.injEq] at h
    exact ⟨s.pp, s.push, .inl ⟨_, _, _, h.symm⟩⟩
  | router =>
    rcases finishRouter_eq_ok.1 h with ⟨-, rfl⟩ | ⟨-, h⟩
    · exact ⟨s.pp, s.push, .inl ⟨_, _, _, rfl⟩⟩
    · rcases countPush_eq_ok.1 h with ⟨-, h⟩ | ⟨-, rfl⟩
      · exact read h
      · exact ⟨s.pp, s.push, .inr (.inl ⟨_, _, rfl⟩)⟩

/-- What the last part of a pass can leave: it queues the transaction and the command goes on, or `PullQueue` does not
return. -/
theorem queueTransfer_frame {pass : Pass} {frames : List Frame} {s t : State}
    (h : queueTransfer pass (afterPass pass) frames s = .ok t) :
    (s.txLen.toNat ≤ s.cfg.xferCap ∧
      ∃ pp push, EndsOrWaits { s.queuedTransfer with pp := pp, push := push } t (armedByte true)) ∨
    s.pull.queueReturns = false ∧ t = s.setProgress (.queueing pass frames) := by
  rcases queueTransfer_eq_ok.1 h with ⟨-, h1, h2⟩ | h1
  · exact .inl ⟨h1, afterPass_frame h2⟩
  · exact .inr h1

/-- One atomic step of a pass that is filling: it goes on filling, or queues the transfer. -/
theorem fillStep_frame {pass : Pass} {frames : List Frame} {m : Nat} {s t : State}
    (h : fillStep pass (afterPass pass) frames m s = .ok t) :
    ∃ tail tx txLen, (∃ m', t = { s with rb := { s.rb with tail := tail }, tx := tx, txLen := txLen }.setProgress
        (.filling pass frames m')) ∨
      queueTransfer pass (afterPass pass) frames
        { s with rb := { s.rb with tail := tail }, tx := tx, txLen := txLen } = .ok t := by
  obtain ⟨u, m', more, h1, ⟨-, rfl⟩ | ⟨-, h2⟩⟩ := fillStep_eq_ok.1 h
  · obtain ⟨tail, tx, rfl⟩ := fillOne_frame h1
    exact ⟨tail, tx, s.txLen, .inl ⟨m', rfl⟩⟩
  · obtain ⟨v, h3, h4⟩ := arm_eq_ok.1 h2
    obtain ⟨tail, tx, rfl⟩ := fillOne_frame h1
    obtain ⟨tx', txLen, rfl⟩ := pad_frame h3
    exact ⟨tail, tx', txLen, .inr h4⟩

/-- The arming part of a pass: with two contexts it may go on filling; otherwise it queues the transfer. -/
theorem fillAndArm_frame {pass : Pass} {frames : List Frame} {s t : State}
    (h : fillAndArm pass (afterPass pass) frames s = .ok t) :
    ∃ tail tx txLen, (s.twoContexts = true ∧ ∃ m', t = { s with
        rb := { s.rb with tail := tail }, tx := tx, txLen := txLen }.setProgress (.filling pass frames m')) ∨
      queueTransfer pass (afterPass pass) frames
        { s with rb := { s.rb with tail := tail }, tx := tx, txLen := txLen } = .ok t := by
  unfold fillAndArm at h
  split_ifs at h with h2
  · obtain ⟨tail, tx, txLen, h | h⟩ := fillStep_frame h
    · exact ⟨tail, tx, txLen, .inl ⟨h2, h⟩⟩
    · exact ⟨tail, tx, txLen, .inr h⟩
  · obtain ⟨⟨u, m⟩, h3, h4⟩ := except_bind_eq_ok.1 h
    obtain ⟨v, h5, h6⟩ := arm_eq_ok.1 h4
    obtain ⟨tail, tx, rfl⟩ := fillAll_frame h3
    obtain ⟨tx', txLen, rfl⟩ := pad_frame h5
    exact ⟨tail, tx', txLen, .inr h6⟩

/-- What PULL_POLL and ROUTER_PASS can leave (44_pull_bus_scheduler R230). -/
theorem schedPass_frame {pass : Pass} {s t : State} (h : schedPass pass (afterPass pass) s = .ok t) :
    (s.pull.pollReturns = false ∧ t = s.setProgress (.polling pass)) ∨
    (∃ reason, reportFault s.tip s.txLen.toNat s.pull.completed s.pull.rxCount s.pull.inFlight = some reason ∧
      t = { s with pull := s.pull.polled }.raise reason) ∨
    reportFault s.tip s.txLen.toNat s.pull.completed s.pull.rxCount s.pull.inFlight = none ∧
    ∃ pl tip frames, (s.pull.completed ≠ 1 → pl = s.pl ∧ tip = s.tip) ∧ (s.pull.completed = 1 → tip = false) ∧
      (s.pull.inFlight ≠ 0 ∧ (∃ pp push,
          EndsOrWaits { s with pull := s.pull.polled, pl := pl, tip := tip, pp := pp, push := push } t 0) ∨
       s.pull.inFlight = 0 ∧ ∃ tail tx txLen,
        (s.twoContexts = true ∧ ∃ m', t = { s with
          pull := s.pull.polled, pl := pl, tip := tip, rb := { s.rb with tail := tail }, tx := tx,
          txLen := txLen }.setProgress (.filling pass frames m')) ∨
        queueTransfer pass (afterPass pass) frames { s with
          pull := s.pull.polled, pl := pl, tip := tip, rb := { s.rb with tail := tail }, tx := tx,
          txLen := txLen } = .ok t) := by
  rcases schedPass_eq_ok.1 h with ⟨-, h⟩ | h
  swap
  · exact .inl h
  refine .inr ?_
  rcases passAfterPoll_eq_ok.1 h with h | ⟨hn, u, frames, hd, h2⟩
  · exact .inl h
  · refine .inr ⟨hn, ?_⟩
    have : ∃ pl tip, (s.pull.completed ≠ 1 → pl = s.pl ∧ tip = s.tip) ∧ (s.pull.completed = 1 → tip = false) ∧
        u = { s with pull := s.pull.polled, pl := pl, tip := tip } := by
      rcases drain_eq_ok.1 hd with ⟨hc, rfl, -⟩ | ⟨hc, -, P, -, rfl⟩
      · exact ⟨s.pl, s.tip, fun _ => ⟨rfl, rfl⟩, fun h => absurd h hc, rfl⟩
      · exact ⟨P, false, fun h => absurd hc h, fun _ => rfl, rfl⟩
    obtain ⟨pl, tip, hp1, hp2, rfl⟩ := this
    refine ⟨pl, tip, frames, hp1, hp2, ?_⟩
    rcases h2 with ⟨hf, h2⟩ | ⟨hf, h2⟩
    · obtain ⟨tail, tx, txLen, h3⟩ := fillAndArm_frame h2
      exact .inr ⟨hf, tail, tx, txLen, h3⟩
    · obtain ⟨pp, push, h3⟩ := afterPass_frame h2
      exact .inl ⟨hf, pp, push, h3⟩

/-- What each command can do to the state, apart from values: the frame of every command (60_exceptions R308). -/
theorem exec_frame {i : Instr} {s t : State} (h : exec i s = .next t) :
    paramsValid s.cfg = true ∧
    (s.admits i = false ∧ t = s.raise .contextConflict ∨
     s.admits i = true ∧
     ((((∃ crc b, i = .crcUpdate crc b) ∨ (∃ id data, i = .crc16 id data) ∨ i = .rbIsEmpty ∨ (∃ sel, i = .getFrame sel) ∨
        ∃ reg, i = .rdReg reg) ∧ ∃ st b8 h16 data, t = s.respond st b8 h16 data) ∨
      (∃ b pushed rb, i = .rbPush b ∧ rbPush s.cfg s.rb b = .ok (pushed, rb) ∧
        t = { s with rb := rb }.respond (Status.ofBool pushed) 0 0 []) ∨
      (∃ popped rb st b8, i = .rbPop ∧ rbPop s.cfg s.rb = .ok (popped, rb) ∧ t = { s with rb := rb }.respond st b8 0 []) ∨
      (∃ sel b P done, i = .parseByte sel b ∧ (s.parser sel).processByte s.cfg b = .ok (P, done) ∧
        t = (s.setParser sel P).respond (Status.ofBool done) 0 0 []) ∨
      (((∃ id payload, i = .sendPush id payload) ∨ ∃ id payload, i = .sendQueue id payload) ∧ t = s.rejectSend) ∨
      (∃ id payload, i = .sendPush id payload ∧
        t = s.writeAndFlush (encodeFrame s.cfg.crcProfile id payload)) ∨
      (∃ id payload, i = .sendQueue id payload ∧ s.twoContexts = true ∧
        enqueueStep (encodeFrame s.cfg.crcProfile id payload) 0 s = .ok t) ∨
      (∃ id payload, i = .sendQueue id payload ∧ s.twoContexts = false ∧
        enqueueAll (encodeFrame s.cfg.crcProfile id payload) 0 s = .ok t) ∨
      (i = .pullPoll ∧ schedPass .poll (afterPass .poll) s = .ok t) ∨
      (i = .routerPass ∧ schedPass .router (afterPass .router) s = .ok t))) := by
  cases i with
  | crcUpdate crc b =>
    obtain ⟨hv, h | ⟨ha, h⟩⟩ := guarded_eq_next h
    · exact ⟨hv, .inl h⟩
    · simp only [Except.ok.injEq] at h
      exact ⟨hv, .inr ⟨ha, .inl ⟨.inl ⟨_, _, rfl⟩, _, _, _, _, h.symm⟩⟩⟩
  | crc16 id data =>
    obtain ⟨hv, h | ⟨ha, h⟩⟩ := guarded_eq_next h
    · exact ⟨hv, .inl h⟩
    · simp only [Except.ok.injEq] at h
      exact ⟨hv, .inr ⟨ha, .inl ⟨.inr (.inl ⟨_, _, rfl⟩), _, _, _, _, h.symm⟩⟩⟩
  | rbPush b =>
    obtain ⟨hv, h | ⟨ha, h⟩⟩ := guarded_eq_next h
    · exact ⟨hv, .inl h⟩
    · obtain ⟨⟨pushed, rb⟩, h1, h2⟩ := except_bind_eq_ok.1 h
      simp only [Except.ok.injEq] at h2
      exact ⟨hv, .inr ⟨ha, .inr (.inl ⟨b, pushed, rb, rfl, h1, h2.symm⟩)⟩⟩
  | rbPop =>
    obtain ⟨hv, h | ⟨ha, h⟩⟩ := guarded_eq_next h
    · exact ⟨hv, .inl h⟩
    · obtain ⟨⟨popped, rb⟩, h1, h2⟩ := except_bind_eq_ok.1 h
      refine ⟨hv, .inr ⟨ha, .inr (.inr (.inl ⟨popped, rb, ?_⟩))⟩⟩
      cases popped with
      | none =>
        simp only [Except.ok.injEq] at h2
        obtain rfl := (rbPop_frame h1).2 rfl
        exact ⟨_, _, rfl, h1, h2.symm⟩
      | some b =>
        simp only [Except.ok.injEq] at h2
        exact ⟨_, _, rfl, h1, h2.symm⟩
  | rbIsEmpty =>
    obtain ⟨hv, h | ⟨ha, h⟩⟩ := guarded_eq_next h
    · exact ⟨hv, .inl h⟩
    · simp only [Except.ok.injEq] at h
      exact ⟨hv, .inr ⟨ha, .inl ⟨.inr (.inr (.inl rfl)), _, _, _, _, h.symm⟩⟩⟩
  | parseByte sel b =>
    obtain ⟨hv, h | ⟨ha, h⟩⟩ := guarded_eq_next h
    · exact ⟨hv, .inl h⟩
    · obtain ⟨⟨P, done⟩, h1, h2⟩ := except_bind_eq_ok.1 h
      simp only [Except.ok.injEq] at h2
      exact ⟨hv, .inr ⟨ha, .inr (.inr (.inr (.inl ⟨sel, b, P, done, rfl, h1, h2.symm⟩)))⟩⟩
  | getFrame sel =>
    obtain ⟨hv, h | ⟨ha, h⟩⟩ := guarded_eq_next h
    · exact ⟨hv, .inl h⟩
    · refine ⟨hv, .inr ⟨ha, .inl ⟨.inr (.inr (.inr (.inl ⟨_, rfl⟩))), ?_⟩⟩⟩
      split_ifs at h
      · obtain ⟨f, -, h2⟩ := except_bind_eq_ok.1 h
        simp only [Except.ok.injEq] at h2
        exact ⟨_, _, _, _, h2.symm⟩
      · simp only [Except.ok.injEq] at h
        exact ⟨_, _, _, _, h.symm⟩
  | sendPush id payload =>
    obtain ⟨hv, h | ⟨ha, h⟩⟩ := guarded_eq_next h
    · exact ⟨hv, .inl h⟩
    · refine ⟨hv, .inr ⟨ha, ?_⟩⟩
      split_ifs at h <;> simp only [Except.ok.injEq] at h
      · exact .inr (.inr (.inr (.inr (.inr (.inl ⟨_, _, rfl, h.symm⟩)))))
      · exact .inr (.inr (.inr (.inr (.inl ⟨.inl ⟨_, _, rfl⟩, h.symm⟩))))
  | sendQueue id payload =>
    obtain ⟨hv, h | ⟨ha, h⟩⟩ := guarded_eq_next h
    · exact ⟨hv, .inl h⟩
    · refine ⟨hv, .inr ⟨ha, ?_⟩⟩
      split_ifs at h with h1 h2
      · exact .inr (.inr (.inr (.inr (.inr (.inr (.inl ⟨_, _, rfl, h2, h⟩))))))
      · exact .inr (.inr (.inr (.inr (.inr (.inr (.inr (.inl ⟨_, _, rfl, by simpa using h2, h⟩)))))))
      · simp only [Except.ok.injEq] at h
        exact .inr (.inr (.inr (.inr (.inl ⟨.inr ⟨_, _, rfl⟩, h.symm⟩))))
  | pullPoll =>
    obtain ⟨hv, h | ⟨ha, h⟩⟩ := guarded_eq_next h
    · exact ⟨hv, .inl h⟩
    · exact ⟨hv, .inr ⟨ha, .inr (.inr (.inr (.inr (.inr (.inr (.inr (.inr (.inl ⟨rfl, h⟩))))))))⟩⟩
  | routerPass =>
    obtain ⟨hv, h | ⟨ha, h⟩⟩ := guarded_eq_next h
    · exact ⟨hv, .inl h⟩
    · exact ⟨hv, .inr ⟨ha, .inr (.inr (.inr (.inr (.inr (.inr (.inr (.inr (.inr ⟨rfl, h⟩))))))))⟩⟩
  | rdReg reg =>
    obtain ⟨hv, h | ⟨ha, h⟩⟩ := guarded_eq_next h
    · exact ⟨hv, .inl h⟩
    · simp only [Except.ok.injEq] at h
      exact ⟨hv, .inr ⟨ha, .inl ⟨.inr (.inr (.inr (.inr ⟨_, rfl⟩))), _, _, _, _, h.symm⟩⟩⟩

end Sys2Proof.Machine
end

