-- ==== Sys2Proof/Laws/PerInstr.lean ====
section
/-! SUPPORT. Families of lemmas with one lemma per command. -/

/-! ### `EncodedLength`: a command's word says how long its data phase is (30_encoding R101, R102) -/

namespace Sys2Proof.Laws.EncodedLength

/-- The encoding of a well-formed command is its four bytes of command word and DLEN bytes of data phase. -/
def Statement (i : Instr) : Prop :=
  i.wellFormed = true → (encode i).length = 4 + dataPhaseLength i.opcode i.fieldH16

theorem crcUpdate (crc : U16) (b : Byte) : Statement (.crcUpdate crc b) := fun _ => rfl

theorem crc16 (id : Byte) (data : List Byte) : Statement (.crc16 id data) := fun h => by
  have h : data.length < 65536 := by simpa [Instr.wellFormed] using h
  simp [encode, Instr.opcode, Instr.fieldH16, Instr.dataPhase, dataPhaseLength, Nat.mod_eq_of_lt h]
  omega

theorem rbPush (b : Byte) : Statement (.rbPush b) := fun _ => rfl

theorem rbPop : Statement .rbPop := fun _ => rfl

theorem rbIsEmpty : Statement .rbIsEmpty := fun _ => rfl

theorem parseByte (sel : ParserSel) (b : Byte) : Statement (.parseByte sel b) := fun _ => rfl

theorem getFrame (sel : ParserSel) : Statement (.getFrame sel) := fun _ => rfl

theorem sendPush (id : Byte) (payload : List Byte) : Statement (.sendPush id payload) := fun h => by
  have h : payload.length < 65536 := by simpa [Instr.wellFormed] using h
  simp [encode, Instr.opcode, Instr.fieldH16, Instr.dataPhase, dataPhaseLength, Nat.mod_eq_of_lt h]
  omega

theorem sendQueue (id : Byte) (payload : List Byte) : Statement (.sendQueue id payload) := fun h => by
  have h : payload.length < 65536 := by simpa [Instr.wellFormed] using h
  simp [encode, Instr.opcode, Instr.fieldH16, Instr.dataPhase, dataPhaseLength, Nat.mod_eq_of_lt h]
  omega

theorem pullPoll : Statement .pullPoll := fun _ => rfl

theorem routerPass : Statement .routerPass := fun _ => rfl

theorem rdReg (reg : Reg) : Statement (.rdReg reg) := fun _ => rfl

end Sys2Proof.Laws.EncodedLength
end

