-- ==== Sys2Proof/Machine/Assembly.lean ====
section
/-! DEFINITION. The assembler's lines (30_encoding R116) and the pseudo-commands (30_encoding R117). Neither is read by
the machine: a host writes them, and the block sees the commands. -/

namespace Sys2Proof.Machine

/-- `<PP or PL>` (30_encoding R116). -/
def selName : ParserSel → String
  | .pp => "PP"
  | .pl => "PL"

/-- The register names of 46_control R281. -/
def regName : Reg → String
  | .cfgMaxPayload => "CFG_MAX_PAYLOAD"
  | .cfgRbCap => "CFG_RB_CAP"
  | .cfgXferCap => "CFG_XFER_CAP"
  | .cfgAlign => "CFG_ALIGN"
  | .cfgOptions => "CFG_OPTIONS"
  | .cfgIdxW => "CFG_IDX_W"
  | .cntSendReject => "CNT_SEND_REJECT"
  | .cntQueueDrop => "CNT_QUEUE_DROP"
  | .status => "STATUS"
  | .rbCount => "RB_COUNT"

/-- A byte as a decimal number. -/
def byteText (b : Byte) : String := toString b.toNat

/-- A list of bytes `[<b0>, <b1>, ...]`. -/
def bytesText (bytes : List Byte) : String := "[" ++ String.intercalate ", " (bytes.map byteText) ++ "]"

/-- The assembler's line for a command (30_encoding R116). -/
def asmLine : Instr → String
  | .crcUpdate crc b => "CRC_UPDATE " ++ toString crc.toNat ++ ", " ++ byteText b
  | .crc16 id data => "CRC16 " ++ byteText id ++ ", " ++ bytesText data
  | .rbPush b => "RB_PUSH " ++ byteText b
  | .rbPop => "RB_POP"
  | .rbIsEmpty => "RB_IS_EMPTY"
  | .parseByte sel b => "PARSE_BYTE " ++ selName sel ++ ", " ++ byteText b
  | .getFrame sel => "GET_FRAME " ++ selName sel
  | .sendPush id payload => "SEND_PUSH " ++ byteText id ++ ", " ++ bytesText payload
  | .sendQueue id payload => "SEND_QUEUE " ++ byteText id ++ ", " ++ bytesText payload
  | .pullPoll => "PULL_POLL"
  | .routerPass => "ROUTER_PASS"
  | .rdReg reg => "RD_REG " ++ regName reg

/-- The pseudo-commands of 30_encoding R117. -/
inductive PseudoCommand
  | encodeAndSendPush (id : Byte) (payload : List Byte)
  | encodeAndSendPull (id : Byte) (payload : List Byte)
  | feedByte (sel : ParserSel) (b : Byte)
  | currentFrame (sel : ParserSel)
  | pollPullBus
  | parseBytes (sel : ParserSel) (bytes : List Byte)
  deriving DecidableEq, Repr

/-- The commands a pseudo-command always issues, in order (30_encoding R117). -/
def expand : PseudoCommand → List Instr
  | .encodeAndSendPush id payload => [.sendPush id payload]
  | .encodeAndSendPull id payload => [.sendQueue id payload]
  | .feedByte sel b => [.parseByte sel b]
  | .currentFrame sel => [.getFrame sel]
  | .pollPullBus => [.pullPoll]
  | .parseBytes sel bytes => bytes.map (.parseByte sel)

/-- The commands a pseudo-command issues after the response to those: FEED_BYTE reads the frame where the status was OK
(30_encoding R117). -/
def expandAfter : PseudoCommand → Status → List Instr
  | .feedByte sel _, .ok => [.getFrame sel]
  | _, _ => []

end Sys2Proof.Machine
end

