-- ==== Sys2Proof/Tests/Slice0.lean ====
section
/-! SUPPORT. Tests. Expected results are taken from the spec: 30_encoding R116 and the vectors of 95_test_vectors, named
with each test. The witnesses at the end show, for each statement with hypotheses, values that meet them. -/

namespace Sys2Proof.Tests

open Sys2Proof.Machine

/-! ### Helpers -/

/-- The test configuration of 95_test_vectors, with its `decodeChange`. -/
def cfg : Params := { Params.vectors with changeDecoder := .testTD }

/-- The block right after reset in that configuration, one context. -/
def base : State := .initial cfg

/-- With command bytes issued. -/
def issued (bytes : List Byte) : State := { base with portC := { base.portC with stream := bytes } }

/-- With two contexts, `x` next. -/
def two (x : Context) : State := { base with twoContexts := true, turn := x }

/-- The last response on port C after a step. -/
def answer : Host.Outcome State Fault Refusal → Option Response
  | .next t => t.portC.responses.getLast?
  | _ => none

/-- A field of the state after a step. -/
def field {α : Type} (f : State → α) : Host.Outcome State Fault Refusal → Option α
  | .next t => some (f t)
  | _ => none

/-- A byte array with these bytes at its start. -/
def bytesAt0 (bytes : List Byte) : Memory := Memory.writeBytes [] 0 bytes

/-- The frame F of 95_test_vectors 1.1. -/
def frameF : List Byte := [0xA5, 0x5A, 0x05, 0x00, 0x07, 0x01, 0x02, 0x03, 0x04, 0x30, 0xCF]

/-- The state with an armed transfer of `len` bytes and the transport's report `(c, r, f)`. -/
def armedState (tip : Bool) (len : U16) (c r f : Nat) (rx : List Byte) : State :=
  { base with
    tip := tip
    txLen := len
    rx := bytesAt0 rx
    pull := { base.pull with completed := c, rxCount := r, inFlight := f } }

/-! ### WellFormed: every check refuses an ill-formed term -/

/-- 65536 bytes: the least length that H16 cannot carry. -/
def tooLong : List Byte := List.replicate 65536 0

theorem tooLong_length : tooLong.length = 65536 := List.length_replicate

theorem test_wellFormed_refuses_crc16 : (Instr.crc16 0 tooLong).wellFormed = false := by
  simp [Instr.wellFormed, tooLong_length]

theorem test_wellFormed_refuses_sendPush : (Instr.sendPush 0 tooLong).wellFormed = false := by
  simp [Instr.wellFormed, tooLong_length]

theorem test_wellFormed_refuses_sendQueue : (Instr.sendQueue 0 tooLong).wellFormed = false := by
  simp [Instr.wellFormed, tooLong_length]

/-! ### Decode: a word of every constructor, written out from 30_encoding R113 and R116 -/

theorem test_decode_crcUpdate : decodeTableWord 32 0xFFFF0701 = some (.crcUpdate 0xFFFF 0x07) := by decide
theorem test_decode_crc16 : decode [0x02, 0x07, 0x04, 0x00, 1, 2, 3, 4, 0x11] = .ok (.crc16 7 [1, 2, 3, 4], [0x11]) := by
  decide
theorem test_decode_rbPush : decodeTableWord 32 0x00004110 = some (.rbPush 0x41) := by decide
theorem test_decode_rbPop : decodeTableWord 32 0x00000011 = some .rbPop := by decide
theorem test_decode_rbIsEmpty : decodeTableWord 32 0x00000012 = some .rbIsEmpty := by decide
theorem test_decode_parseByte : decodeTableWord 32 0x00015A20 = some (.parseByte .pl 0x5A) := by decide
theorem test_decode_getFrame : decodeTableWord 32 0x00010021 = some (.getFrame .pl) := by decide
theorem test_decode_sendPush : decode [0x30, 0x07, 0x04, 0x00, 1, 2, 3, 4] = .ok (.sendPush 7 [1, 2, 3, 4], []) := by decide
theorem test_decode_sendQueue : decode [0x31, 0x03, 0x02, 0x00, 0xA5, 0x5A] = .ok (.sendQueue 3 [0xA5, 0x5A], []) := by
  decide
theorem test_decode_pullPoll : decodeTableWord 32 0x00000040 = some .pullPoll := by decide
theorem test_decode_routerPass : decodeTableWord 32 0x00000050 = some .routerPass := by decide
theorem test_decode_rdReg : decodeTableWord 32 0x00210060 = some (.rdReg .rbCount) := by decide

/-- The words of 95_test_vectors 2.8 that spell no command. -/
theorem test_decode_illegal :
    [0x00000000, 0x000000FF, 0x00000003, 0x00000111, 0x00010010, 0x00020020, 0x00000121, 0x00010040, 0x00060060,
      0x00220060, 0x00000160].map (decodeTableWord 32) = List.replicate 11 none := by decide

/-- 30_encoding R102: a data phase that is not there in full is waited for. -/
theorem test_decode_truncated : decode [0x31, 0x07, 0x02, 0x00, 1] = .error .truncated := by decide

/-! ### One step of each command -/

/-- Vector 2.1.1. -/
theorem test_crcUpdate : answer (step (base.withFetchWord 32 0x12345601)) = some ⟨.ok, 0, 0xE993, []⟩ := by decide

/-- Vector 2.1.1, the X25_NAMED column. -/
theorem test_crcUpdate_x25 : crcUpdate .x25Named 0x1234 0x56 = 0x4006 := by decide

/-- Vector 2.1.2: the check value of "123456789". -/
theorem test_crc16 : answer (exec (.crc16 0x31 [0x32, 0x33, 0x34, 0x35, 0x36, 0x37, 0x38, 0x39]) base) =
    some ⟨.ok, 0, 0x4B37, []⟩ := by decide +kernel

/-- Vector 2.1.2: the check value under X25_NAMED. -/
theorem test_crc16_x25 : crc16 .x25Named 0x31 [0x32, 0x33, 0x34, 0x35, 0x36, 0x37, 0x38, 0x39] = 0x906E := by decide +kernel

/-- Vector 2.2.3, with RB_CAP 16: the slot is the old `head` modulo RB_CAP, and `head` wraps at 2^IDX_W. -/
theorem test_rbPush_wraps : field State.rb (exec (.rbPush 0x62) { base with rb := ⟨[], 0xFFFF, 0xFFFE⟩ }) =
    some ⟨[(15, 0x62)], 0, 0xFFFE⟩ := by decide

/-- Program P3 step 5: a full buffer refuses the byte. -/
theorem test_rbPush_full : answer (exec (.rbPush 0x45) { base with rb := ⟨[], 4, 0xFFF4⟩ }) = some ⟨.no, 0, 0, []⟩ := by
  decide

/-- Vector 2.2.3: the pop after the index wrap. -/
theorem test_rbPop_wraps : field State.rb (exec .rbPop { base with rb := ⟨[(15, 0x62)], 0, 0xFFFF⟩ }) =
    some ⟨[(15, 0x62)], 0, 0⟩ := by decide

/-- Program P3 step 12: a pop of an empty buffer. -/
theorem test_rbPop_empty : answer (exec .rbPop base) = some ⟨.no, 0, 0, []⟩ := by decide

/-- Vector 2.2.5. -/
theorem test_rbIsEmpty : answer (exec .rbIsEmpty base) = some ⟨.ok, 0, 0, []⟩ := by decide

/-- Program P1 step 3. -/
theorem test_rbIsEmpty_not : answer (exec .rbIsEmpty { base with rb := ⟨[], 11, 0⟩ }) = some ⟨.no, 0, 0, []⟩ := by decide

/-- Vector 2.3.2: LEN = 18 is rejected on its high byte. -/
theorem test_parseByte_length : field (fun t => t.pl.ps) (exec (.parseByte .pl 0x00)
    { base with pl := { Parser.reset with ps := .lenHi, len := 0x12 } }) = some .seek1 := by decide

/-- Vector 2.3.1, second row: the last byte of `A5 5A 01 00 00 BF 40` publishes. -/
theorem test_parseByte_completes : answer (exec (.parseByte .pp 0x40)
    { base with pp := { Parser.reset with ps := .crcHi, len := 1, crclo := 0xBF } }) = some ⟨.ok, 0, 0, []⟩ := by decide

/-- Program P1 step 8. -/
theorem test_getFrame : answer (exec (.getFrame .pl)
    { base with pl := { Parser.reset with frmValid := true, frmId := 0x42, frmLen := 1, frmPayload := [(0, 0xAA)] } }) =
    some ⟨.ok, 0, 0, [0x42, 0x01, 0x00, 0xAA]⟩ := by decide

/-- Vector 2.3.7. -/
theorem test_getFrame_none : answer (exec (.getFrame .pp) base) = some ⟨.no, 0, 0, []⟩ := by decide

/-- Vector 2.4, first row. -/
theorem test_sendPush : field (fun t => t.push.txSent) (exec (.sendPush 7 [1, 2, 3, 4]) base) = some frameF := by decide +kernel

/-- Vector 2.4, second row, from its word: an empty payload is dropped. -/
theorem test_sendPush_dropped : answer (step (base.withFetchWord 32 0x00000730)) = some ⟨.dropped, 0, 0, []⟩ := by decide

/-- Vector 2.4, sixth row. -/
theorem test_sendQueue : answer (exec (.sendQueue 7 [1, 2, 3, 4]) base) = some ⟨.ok, 0, 0x000B, []⟩ := by decide

/-- Vector 2.4, fourth row: 16 of 23 bytes fit, 7 are counted as dropped. -/
theorem test_sendQueue_drops : field State.cntQueueDrop (exec (.sendQueue 9 (List.replicate 16 0)) base) = some 7 := by
  decide

/-- Vector 2.5.2. -/
theorem test_pullPoll : field (fun t => (t.txLen, Memory.readPrefix t.tx 4, t.portC.responses)) (exec .pullPoll base) =
    some (4, [0xFF, 0xFF, 0xFF, 0xFF], [⟨.ok, 1, 0, [0, 0, 0, 0]⟩]) := by decide

/-- Vector 2.5.3, third row. -/
theorem test_pullPoll_overrun : field State.faultReason (exec .pullPoll (armedState true 4 1 5 0 [])) = some 3 := by decide

/-- Vector 2.6.2. -/
theorem test_routerPass_push : answer (exec .routerPass { armedState true 4 0 0 1 [] with
    push := { base.push with rxq := [0xA5, 0x5A, 0x02, 0x00, 0x10, 0x01, 0xCD, 0xB0] } }) =
    some ⟨.no, 0, 8, [1, 0, 0, 0, 1, 0x10, 1, 0, 1]⟩ := by decide +kernel

/-- Vector 2.6.4, its Change alone: a pull-bus Change ends the pass before the push phase. -/
theorem test_routerPass_change : answer (exec .routerPass { armedState true 12 1 12 0
      [0xA5, 0x5A, 0x06, 0x00, 0x11, 0x01, 0x00, 0x00, 0x80, 0x3F, 0x1F, 0x4A] with
    push := { base.push with rxq := [0xA5] } }) =
    some ⟨.ok, 1, 0, [1, 0, 0, 0, 2, 0x11, 1, 0, 0, 0x80, 0x3F]⟩ := by decide +kernel

/-- Vector 2.7: CFG_OPTIONS with X25_NAMED, HOLD, CONTINUE and CHANGE_ID 0x42. -/
theorem test_rdReg_options : optionsWord { cfg with
    crcProfile := .x25Named, seek2OnA5 := .hold, queueOnFull := .goOn, changeId := 0x42 } = 0x4207 := by decide

/-- Vector 2.7, STATUS: a frame on `PL`, `tip` set. -/
theorem test_rdReg_status : answer (exec (.rdReg .status)
    { base with tip := true, pl := { Parser.reset with frmValid := true } }) = some ⟨.ok, 0, 0, [1, 2, 0, 0]⟩ := by decide

/-- Vector 2.8: from context P, RB_POP faults with CONTEXT_CONFLICT, and an ILLEGAL word does not. -/
theorem test_context_conflict : field (fun t => (t.faultReason, t.portP.responses)) (exec .rbPop (two .p)) =
    some (7, [⟨.fault, 0, 0, []⟩]) ∧
    field (fun t => (t.fault, t.portP.responses)) (step { two .p with portP := { Port.empty with stream := [0x11, 1, 0, 0] } }) =
      some (false, [⟨.illegal, 0, 0, []⟩]) := by decide

/-! ### Witnesses: values that meet the hypotheses of each statement -/

theorem parserReset_good : Parser.reset.Good cfg := by
  constructor <;> first | exact ⟨⟨.nil, by simp [Parser.reset]⟩, by simp [Parser.reset]⟩ | decide

theorem base_good : base.Good where
  cfg := by decide
  pp := parserReset_good
  pl := parserReset_good
  rb := ⟨by decide, by decide, by decide, by decide⟩
  tx := by decide
  rx := by decide
  txLen := by decide
  queued := by decide
  faultReason := by decide
  progressP := trivial
  progressC := trivial

theorem two_good (x : Context) : (two x).Good :=
  ⟨base_good.cfg, base_good.pp, base_good.pl, base_good.rb, base_good.tx, base_good.rx, base_good.txLen,
    base_good.queued, base_good.faultReason, trivial, trivial⟩

/-- With one context every command is accepted. -/
theorem base_accepts (i : Instr) : base.accepts i := ⟨by decide, rfl⟩

/-- A parser in state `ps` with these elements of a frame in progress. -/
def inState (ps : ParserState) (len idx : U16) (crclo : Byte) : Parser :=
  { Parser.reset with ps := ps, len := len, idx := idx, crclo := crclo }

theorem inState_good {ps : ParserState} {len idx : U16} {crclo : Byte}
    (h : (ps = .id ∨ ps = .payload ∨ ps = .crcLo ∨ ps = .crcHi → 1 ≤ len.toNat ∧ len.toNat ≤ 17) ∧
      (ps = .payload → idx.toNat + 1 < len.toNat) ∧ (ps = .crcLo ∨ ps = .crcHi → idx.toNat + 1 = len.toNat)) :
    (inState ps len idx crclo).Good cfg :=
  ⟨parserReset_good.acc, parserReset_good.frmPayload, h.1, h.2.1, h.2.2, parserReset_good.frmLen⟩

/-- The longest data phase that H16 can carry. -/
def longest : List Byte := List.replicate 65535 0

theorem longest_length : longest.length = 65535 := List.length_replicate

theorem witness_DecodeReadsBackEveryEncoding : (Instr.crc16 7 longest).wellFormed = true := by
  simp [Instr.wellFormed, longest_length]

theorem witness_EncodeWritesBackEveryDecoding : decode [0x10, 0x41, 0, 0, 0xEE] = .ok (.rbPush 0x41, [0xEE]) := by decide

/-- One word for each clause, at the least value that the clause refuses; with no act left, and with a turn as the next
act. -/
theorem witness_IllegalWordGetsIllegalResponse :
    (∀ w : List Byte, paramsValid (issued w).cfg = true ∧ (issued w).turnedTo (issued w) ∧
      { issued w with inputs := [.turn .c, .reset] }.turnedTo { issued w with inputs := [.reset] } ∧
      (issued w).port.progress = .idle ∧ (issued w).resetPending = false ∧ (issued w).port.stream = w) ∧
    (0x03 : Byte) ∉ [0x01, 0x02, 0x10, 0x11, 0x12, 0x20, 0x21, 0x30, 0x31, 0x40, 0x50, 0x60] ∧
    ((0x60 : Byte) ∈ [0x11, 0x12, 0x21, 0x40, 0x50, 0x60] ∧ (0x01 : Byte) ≠ 0) ∧
    ((0x10 : Byte) ∈ [0x10, 0x11, 0x12, 0x40, 0x50] ∧ (0x01 : Byte) ≠ 0) ∧
    ((0x20 : Byte) ∈ [0x20, 0x21] ∧ 1 < (0x02 : Byte).toNat) ∧
    (0x06 : Byte) ∉ [0x00, 0x01, 0x02, 0x03, 0x04, 0x05, 0x10, 0x11, 0x20, 0x21] :=
  ⟨fun _ => ⟨base_good.cfg, .inl ⟨rfl, rfl⟩, .inr ⟨.c, [.reset], rfl, rfl⟩, rfl, rfl, rfl⟩, by decide⟩

/-- PARSE_BYTE, RD_REG and CRC16 at the last values they admit, the data phase exactly there. -/
theorem witness_EveryOtherWordIsACommand : ∀ w ∈ ([(0x20, 0xFF, 1, 0, []), (0x60, 0, 0x21, 0, []), (0x02, 0, 1, 0, [0xAA]),
      (0x11, 0, 0, 0, [])] : List (Byte × Byte × Byte × Byte × List Byte)),
    w.1 ∈ [0x01, 0x02, 0x10, 0x11, 0x12, 0x20, 0x21, 0x30, 0x31, 0x40, 0x50, 0x60] ∧
    (w.1 ∈ [0x11, 0x12, 0x21, 0x40, 0x50, 0x60] → w.2.1 = 0) ∧
    (w.1 ∈ [0x10, 0x11, 0x12, 0x40, 0x50] → w.2.2.1 = 0 ∧ w.2.2.2.1 = 0) ∧
    (w.1 ∈ [0x20, 0x21] → w.2.2.1.toNat ≤ 1 ∧ w.2.2.2.1 = 0) ∧
    (w.1 = 0x60 → w.2.2.1 ∈ [0x00, 0x01, 0x02, 0x03, 0x04, 0x05, 0x10, 0x11, 0x20, 0x21] ∧ w.2.2.2.1 = 0) ∧
    (w.1 ∈ [0x02, 0x30, 0x31] → w.2.2.1.toNat + 256 * w.2.2.2.1.toNat ≤ w.2.2.2.2.length) := by decide

theorem witness_StepRunsTheDecodedCommand :
    let s := issued [0x11, 0, 0, 0, 0x12]
    paramsValid s.cfg = true ∧ s.turnedTo s ∧ s.port.progress = .idle ∧ s.resetPending = false ∧
      decode s.port.stream = .ok (.rbPop, [0x12]) := ⟨by decide, .inl ⟨rfl, rfl⟩, rfl, rfl, by decide⟩

/-- The next act is a turn of context P. -/
theorem witness_StepRunsTheDecodedCommand_turn :
    let s := { two .c with portP := { Port.empty with stream := [0x10, 0x41, 0, 0] }, inputs := [.turn .p, .reset] }
    let u := { s with turn := .p, inputs := [.reset] }
    paramsValid s.cfg = true ∧ s.turnedTo u ∧ u.port.progress = .idle ∧ u.resetPending = false ∧
      decode u.port.stream = .ok (.rbPush 0x41, []) :=
  ⟨by decide, .inr ⟨.p, [.reset], rfl, rfl⟩, rfl, rfl, by decide⟩

/-- No byte, and all but the last byte of a data phase. -/
theorem witness_StepWaitsForTheWholeCommand : ∀ w ∈ ([[], [0x31, 7, 2, 0, 1]] : List (List Byte)),
    paramsValid (issued w).cfg = true ∧ (issued w).turnedTo (issued w) ∧ (issued w).port.progress = .idle ∧
      (issued w).resetPending = false ∧ decode (issued w).port.stream = .error .truncated :=
  fun w h => ⟨base_good.cfg, .inl ⟨rfl, rfl⟩, rfl, rfl, (by decide :
    ∀ w ∈ ([[], [0x31, 7, 2, 0, 1]] : List (List Byte)), decode w = .error .truncated) w h⟩

/-- Acts of every kind but a turn. -/
theorem witness_OutsideActsLeaveTheBlock : ∀ i ∈ ([.reset, .masterClock [1], .pullReport 1 1 0 [1], .pushArrive [1],
      .callReturns .pullPoll false, .pushReadsLeft (some 0)] : List Input),
    ({ base with inputs := [i] }.inputs = [i] ∧ (∀ x, i ≠ .turn x)) ∧ ∃ t, step { base with inputs := [i] } = .next t := by
  intro i h
  simp only [List.mem_cons, List.not_mem_nil, or_false] at h
  rcases h with rfl | rfl | rfl | rfl | rfl | rfl <;> exact ⟨⟨rfl, fun x => by simp⟩, _, rfl⟩

/-- The master clocks with nothing in flight, and with a transaction of four bytes in flight; a report comes with as
many bytes as `rx` holds. -/
theorem witness_OutsideActsLeaveTheBlock_receive :
    let s := { base with pull := { base.pull with inFlight := 1, queued := [[1, 2, 3, 4]] } }
    base.pull.inFlight = 0 ∧ s.pull.inFlight ≠ 0 ∧ s.rx.wf ∧ s.pull.queued.getLast?.getD [] = [1, 2, 3, 4] ∧
      ([1, 2, 3, 4] : List Byte).length ≤ s.cfg.xferCap ∧ (List.replicate 16 (0 : Byte)).length ≤ base.cfg.xferCap := by
  decide

/-- Nothing in progress anywhere, and SEND_QUEUE of context P in progress while C has the turn. -/
theorem witness_ResetIsTakenBetweenCommands :
    let s := { base with resetPending := true }
    let u := { two .c with resetPending := true, portP := { Port.empty with progress := .sending [1] 0 } }
    (paramsValid s.cfg = true ∧ s.turnedTo s ∧ s.resetPending = true ∧ s.port.progress = .idle ∧
      s.portP.progress = .idle ∧ s.portC.progress = .idle) ∧
    paramsValid u.cfg = true ∧ u.turnedTo u ∧ u.resetPending = true ∧ u.port.progress = .idle ∧
      u.portP.progress ≠ .idle :=
  ⟨⟨by decide, .inl ⟨rfl, rfl⟩, rfl, rfl, rfl, rfl⟩, by decide, .inl ⟨rfl, rfl⟩, rfl, rfl, by decide⟩

/-- The least and the greatest parameters. -/
theorem witness_InitialStateIsGood :
    paramsValid { cfg with maxPayload := 1, rbCap := 1, idxW := 1, align := 1, xferCap := 1 } = true ∧
    paramsValid { cfg with maxPayload := 65534, rbCap := 2 ^ 15, align := 65535, xferCap := 65535 } = true := by decide

theorem witness_EveryStepKeepsTheInvariant : base.Good ∧ step base = .next base := ⟨base_good, rfl⟩

theorem witness_GoodStateAlwaysSteps : base.Good ∧ (two .p).Good := ⟨base_good, two_good .p⟩

theorem witness_RecordedFaultStays :
    let s := { base with fault := true, faultReason := 4 }
    s.fault = true ∧ s.resetPending = false ∧ (∃ t, exec .pullPoll s = .next t) ∧ ∃ t, step s = .next t :=
  ⟨rfl, rfl, ⟨_, rfl⟩, _, rfl⟩

theorem witness_ParametersNeverChange : step { base with resetPending := true } = .next base := rfl

/-- With two contexts, `x` next, this ring buffer and these commands in progress. -/
def busy (x : Context) (rb : RingBuffer) (p c : Progress) : State :=
  { two x with rb := rb, portP := { Port.empty with progress := p }, portC := { Port.empty with progress := c } }

theorem busy_good {x : Context} {rb : RingBuffer} {p c : Progress} (hr : rb.Good cfg)
    (hp : p.good (busy x rb p c) .p) (hc : c.good (busy x rb p c) .c) : (busy x rb p c).Good :=
  ⟨base_good.cfg, base_good.pp, base_good.pl, hr, base_good.tx, base_good.rx, base_good.txLen, base_good.queued,
    base_good.faultReason, hp, hc⟩

/-- A ring buffer with one byte in it, and a full one. -/
def oneByte : RingBuffer := ⟨[(0, 0xA5)], 1, 0⟩
def fullRing : RingBuffer := ⟨[], 16, 0⟩

theorem oneByte_good : oneByte.Good cfg := ⟨by decide, by decide, by decide, by decide⟩
theorem fullRing_good : fullRing.Good cfg := ⟨by decide, by decide, by decide, by decide⟩

/-- C's command in progress and C next. -/
def held (g : Progress) : State := busy .c .reset .idle g

/-- A command that ends, one that has not ended, and a step of one in progress. -/
theorem witness_CommandGivesOneResponse : (∃ t, exec .rbPop base = .next t ∧ t.port.progress = .idle) ∧
    (∃ t, exec .pullPoll { base with pull := { base.pull with pollReturns := false } } = .next t ∧
      t.port.progress ≠ .idle) ∧
    (held .flushing).turnedTo (held .flushing) ∧ (held .flushing).port.progress ≠ .idle ∧
      ∃ t, step (held .flushing) = .next t :=
  ⟨⟨_, rfl, rfl⟩, ⟨_, rfl, by decide⟩, .inl ⟨rfl, rfl⟩, by decide, _, rfl⟩

theorem witness_ChecksumCommandsAnswer : base.accepts (.crcUpdate 0xFFFF 0x07) ∧ base.accepts (.crc16 0x00 []) :=
  ⟨base_accepts _, base_accepts _⟩

theorem witness_ChangedByteChangesTheChecksum : (0x07 : Byte) ≠ 0x06 := by decide

/-- One slot free, and none. -/
theorem witness_RbPushAnswers :
    let s := { base with rb := ⟨[], 0xFFFF, 0xFFF0⟩ }
    let u := { base with rb := ⟨[], 0x0000, 0xFFF0⟩ }
    s.accepts (.rbPush 1) ∧ s.rb.mem.wf ∧ s.rb.count s.cfg ≠ s.cfg.rbCap ∧
      u.accepts (.rbPush 1) ∧ u.rb.mem.wf ∧ u.rb.count u.cfg = u.cfg.rbCap :=
  ⟨⟨by decide, rfl⟩, by decide, by decide, ⟨by decide, rfl⟩, by decide, by decide⟩

theorem witness_RbPopAnswers :
    let s := { base with rb := ⟨[], 0x0000, 0xFFFF⟩ }
    s.accepts .rbPop ∧ s.rb.head ≠ s.rb.tail ∧ base.accepts .rbPop ∧ base.rb.head = base.rb.tail :=
  ⟨⟨by decide, rfl⟩, by decide, base_accepts _, rfl⟩

theorem witness_RbIsEmptyAnswers : base.accepts .rbIsEmpty := base_accepts _

/-- Empty, with one byte over the index wrap, and full. -/
theorem witness_RingBufferIsABoundedQueue :
    paramsValid cfg = true ∧ RingBuffer.reset.Good cfg ∧ RingBuffer.reset.contents cfg = [] ∧
    RingBuffer.Good cfg ⟨[(15, 0x62)], 0, 0xFFFF⟩ ∧ RingBuffer.contents cfg ⟨[(15, 0x62)], 0, 0xFFFF⟩ = [0x62] ∧
    RingBuffer.Good cfg ⟨[], 16, 0⟩ ∧ (RingBuffer.contents cfg ⟨[], 16, 0⟩).length = cfg.rbCap :=
  ⟨by decide, ⟨by decide, by decide, by decide, by decide⟩, by decide, ⟨by decide, by decide, by decide, by decide⟩,
    by decide, ⟨by decide, by decide, by decide, by decide⟩, by decide⟩

theorem witness_ParserMarkerStates : (inState .seek1 0 0 0).ps = .seek1 ∧ (inState .seek2 0 0 0).ps = .seek2 := by decide

/-- LEN_HI after the low byte 0x00 and after 0xFF. -/
theorem witness_ParserLengthStates : (inState .lenLo 0 0 0).ps = .lenLo ∧
    ((inState .lenHi 0 0 0).ps = .lenHi ∧ (inState .lenHi 0 0 0).len.toNat < 256) ∧
    (inState .lenHi 255 0 0).ps = .lenHi ∧ (inState .lenHi 255 0 0).len.toNat < 256 := by decide

/-- LEN = 1 and LEN = 17 in ID, and the last payload byte of LEN = 17. -/
theorem witness_ParserIdAndPayloadStates : paramsValid cfg = true ∧
    ((inState .id 1 0 0).Good cfg ∧ (inState .id 1 0 0).ps = .id) ∧
    ((inState .id 17 0 0).Good cfg ∧ (inState .id 17 0 0).ps = .id) ∧
    (inState .payload 17 15 0).Good cfg ∧ (inState .payload 17 15 0).ps = .payload :=
  ⟨by decide, ⟨inState_good (by decide), rfl⟩, ⟨inState_good (by decide), rfl⟩, inState_good (by decide), rfl⟩

/-- The frame `A5 5A 01 00 00 BF 40` of vector 2.3.1: its last byte, and another one. -/
theorem witness_ParserCheckStates : paramsValid cfg = true ∧
    ((inState .crcLo 1 0 0).Good cfg ∧ (inState .crcLo 1 0 0).ps = .crcLo) ∧
    (inState .crcHi 1 0 0xBF).Good cfg ∧ (inState .crcHi 1 0 0xBF).ps = .crcHi ∧
    (0x40 * 256 + 0xBF = (crc16 cfg.crcProfile 0 []).toNat ∧ 0x41 * 256 + 0xBF ≠ (crc16 cfg.crcProfile 0 []).toNat) :=
  ⟨by decide, ⟨inState_good (by decide), rfl⟩, inState_good (by decide), rfl, by decide⟩

theorem witness_ParseByteAnswers : base.accepts (.parseByte .pp 0) ∧ base.accepts (.parseByte .pl 0) ∧
    base.pp.Good base.cfg ∧ base.pl.Good base.cfg :=
  ⟨base_accepts _, base_accepts _, base_good.pp, base_good.pl⟩

/-- No frame yet, and a frame of MAX_PAYLOAD bytes. -/
theorem witness_GetFrameAnswers :
    let s := { base with pl := { Parser.reset with frmValid := true, frmLen := 16 } }
    base.accepts (.getFrame .pp) ∧ (base.parser .pp).Good base.cfg ∧ (base.parser .pp).frmValid = false ∧
      s.accepts (.getFrame .pl) ∧ (s.parser .pl).Good s.cfg ∧ (s.parser .pl).frmValid = true :=
  ⟨base_accepts _, parserReset_good, rfl, ⟨by decide, rfl⟩,
    ⟨parserReset_good.acc, parserReset_good.frmPayload, by decide, by decide, by decide, by decide⟩, rfl⟩

/-- A byte that completes a frame, one that does not, and one in a state other than PAYLOAD. -/
theorem witness_OnlyCompletionPublishesAndOnlyPayloadAccumulates :
    (∃ Q, (inState .crcHi 1 0 0xBF).processByte cfg 0x40 = .ok (Q, true)) ∧
    (∃ Q, (inState .crcHi 1 0 0xBF).processByte cfg 0x41 = .ok (Q, false)) ∧
    (inState .lenHi 18 0 0).ps ≠ .payload ∧ ∃ Q, (inState .lenHi 18 0 0).processByte cfg 0 = .ok (Q, false) :=
  ⟨⟨_, rfl⟩, ⟨_, rfl⟩, by decide, _, rfl⟩

theorem witness_EveryByteKeepsTheParserInvariant : paramsValid cfg = true ∧ (inState .payload 17 15 0).Good cfg :=
  ⟨by decide, inState_good (by decide)⟩

/-- All the LEN + 2 bytes, and one less. -/
theorem witness_AcceptedLengthFixesTheByteCount : paramsValid cfg = true ∧ (inState .id 2 0 0).Good cfg ∧
    (inState .id 2 0 0).ps = .id ∧ ([0x42, 0xAA, 0xB1, 0x6F] : List Byte).length ≤ (inState .id 2 0 0).len.toNat + 2 ∧
    ([0x42, 0xAA, 0xB1] : List Byte).length ≤ (inState .id 2 0 0).len.toNat + 2 :=
  ⟨by decide, inState_good (by decide), rfl, by decide, by decide⟩

/-- One payload byte, and as many as LEN can count. -/
theorem witness_EncodedFrameLayout : 1 ≤ ([0x42] : List Byte).length ∧ ([0x42] : List Byte).length ≤ 65534 ∧
    1 ≤ longest.tail.length ∧ longest.tail.length ≤ 65534 := by
  simp [List.length_tail, longest_length]

/-- One payload byte, and MAX_PAYLOAD of them. -/
theorem witness_EncodedFrameParsesBack : paramsValid cfg = true ∧ Parser.reset.Good cfg ∧ Parser.reset.ps = .seek1 ∧
    (1 ≤ ([0x42] : List Byte).length ∧ ([0x42] : List Byte).length ≤ cfg.maxPayload) ∧
    1 ≤ (List.replicate 16 (0 : Byte)).length ∧ (List.replicate 16 (0 : Byte)).length ≤ cfg.maxPayload :=
  ⟨by decide, parserReset_good, rfl, by decide, by decide⟩

/-- The id, and the last checksum byte. -/
theorem witness_DamagedFrameIsRejected : paramsValid cfg = true ∧ Parser.reset.Good cfg ∧ Parser.reset.ps = .seek1 ∧
    1 ≤ ([1, 2, 3, 4] : List Byte).length ∧ ([1, 2, 3, 4] : List Byte).length ≤ cfg.maxPayload ∧
    (encodeFrame cfg.crcProfile 7 [1, 2, 3, 4])[4]? ≠ some 0x06 ∧
    10 < ([1, 2, 3, 4] : List Byte).length + 7 ∧ (encodeFrame cfg.crcProfile 7 [1, 2, 3, 4])[10]? ≠ some 0xCE :=
  ⟨by decide, parserReset_good, rfl, by decide, by decide, by decide +kernel, by decide, by decide +kernel⟩

theorem witness_RejectedSendIsDropped : base.accepts (.sendPush 7 []) ∧ ([] : List Byte).length = 0 ∧
    base.accepts (.sendQueue 9 (List.replicate 17 0)) ∧ (List.replicate 17 (0 : Byte)).length > base.cfg.maxPayload :=
  ⟨base_accepts _, rfl, base_accepts _, by decide⟩

theorem witness_SendPushAnswers : base.accepts (.sendPush 7 [1]) ∧ 1 ≤ ([1] : List Byte).length ∧
    ([1] : List Byte).length ≤ base.cfg.maxPayload ∧ base.push.writeReturns = true ∧ base.push.flushReturns = true :=
  ⟨base_accepts _, by decide, by decide, rfl, rfl⟩

/-- SEND_PUSH meets each call that does not return. -/
theorem witness_PushCallThatDoesNotReturnHoldsItsCommand :
    let s := { base with push := { base.push with writeReturns := false } }
    let u := { base with push := { base.push with flushReturns := false } }
    (s.accepts (.sendPush 7 [1]) ∧ ([1] : List Byte).length ≤ s.cfg.maxPayload ∧ s.push.writeReturns = false) ∧
    u.accepts (.sendPush 7 [1]) ∧ u.push.writeReturns = true ∧ u.push.flushReturns = false :=
  ⟨⟨⟨by decide, rfl⟩, by decide, rfl⟩, ⟨by decide, rfl⟩, rfl, rfl⟩

/-- A command inside each call, every call returning, and none. -/
theorem witness_PushCallThatDoesNotReturnHoldsItsCommand_held (g : Progress) :
    let stuck := { base.push with writeReturns := false, flushReturns := false, availableReturns := false,
                                  readsLeft := some 0 }
    let s := { held g with push := stuck }
    (paramsValid (held g).cfg = true ∧ (held g).turnedTo (held g) ∧ (held g).port.progress = g ∧
      (held g).push.Returns ∧ (held g).pp.Good (held g).cfg) ∧
    s.turnedTo s ∧ s.port.progress = g ∧ s.push.writeReturns = false ∧ s.push.flushReturns = false ∧
      s.push.availableReturns = false ∧ s.push.readsLeft = some 0 :=
  ⟨⟨base_good.cfg, .inl ⟨rfl, rfl⟩, rfl, ⟨rfl, rfl, rfl, rfl⟩, parserReset_good⟩, .inl ⟨rfl, rfl⟩, rfl, rfl, rfl, rfl, rfl⟩

/-- Each command meets a `PullPoll` that does not return, is inside it, and, nothing being in flight, meets a `PullQueue`
that does not return. -/
theorem witness_PullCallThatDoesNotReturnHoldsItsCommand (pass : Pass) :
    let s := { base with pull := { base.pull with pollReturns := false } }
    let v := { base with pull := { base.pull with queueReturns := false } }
    (s.accepts pass.command ∧ s.pull.pollReturns = false) ∧
    ((held (.polling pass)).turnedTo (held (.polling pass)) ∧ (held (.polling pass)).port.progress = .polling pass ∧
      (held (.polling pass)).accepts pass.command) ∧
    v.Good ∧ v.twoContexts = false ∧ v.completionSound ∧ v.pull.inFlight = 0 ∧ v.tip = false ∧
      v.pull.pollReturns = true ∧ v.pull.queueReturns = false := by
  refine ⟨⟨⟨by decide, rfl⟩, rfl⟩, ⟨.inl ⟨rfl, rfl⟩, rfl, base_good.cfg, by cases pass <;> rfl⟩, ?_, rfl, .inl rfl, rfl, rfl, rfl, rfl⟩
  exact ⟨base_good.cfg, base_good.pp, base_good.pl, base_good.rb, base_good.tx, base_good.rx, base_good.txLen,
    base_good.queued, base_good.faultReason, trivial, trivial⟩

/-- A pass stands inside `PullQueue` with a padded transfer of 16 bytes. -/
theorem witness_PullCallThatDoesNotReturnHoldsItsCommand_queueing (pass : Pass) (frames : List Frame) :
    let s := { held (.queueing pass frames) with txLen := 16 }
    s.Good ∧ s.turnedTo s ∧ s.port.progress = .queueing pass frames ∧ s.pull.queueReturns = true :=
  ⟨⟨base_good.cfg, base_good.pp, base_good.pl, base_good.rb, base_good.tx, base_good.rx, (fun h => by cases h),
    base_good.queued, base_good.faultReason, trivial, ⟨rfl, (by decide : 16 % 4 = 0 ∧ 0 < 16 ∧ 16 ≤ 16)⟩⟩,
    .inl ⟨rfl, rfl⟩, rfl, rfl⟩

/-- One payload byte, and MAX_PAYLOAD of them, of which the ring does not hold all. -/
theorem witness_SendQueueEnqueuesWhatFits : base.Good ∧ base.twoContexts = false ∧
    (1 ≤ ([1] : List Byte).length ∧ ([1] : List Byte).length ≤ base.cfg.maxPayload) ∧
    1 ≤ (List.replicate 16 (0 : Byte)).length ∧ (List.replicate 16 (0 : Byte)).length ≤ base.cfg.maxPayload :=
  ⟨base_good, rfl, by decide, by decide⟩

theorem witness_SendQueueInStepsEnqueuesTheSame : (two .p).Good ∧ (two .p).twoContexts = true ∧ (two .p).turn = .p ∧
    (two .p).inputs = [] ∧ (1 ≤ ([1] : List Byte).length ∧ ([1] : List Byte).length ≤ (two .p).cfg.maxPayload) ∧
    (two .p).rb.count (two .p).cfg < (two .p).cfg.rbCap :=
  ⟨two_good .p, rfl, rfl, rfl, by decide, by decide⟩

/-- SEND_QUEUE in progress with its last byte and with two, an empty ring and a full one. -/
theorem witness_SendQueueInStepsEnqueuesTheSame_step : ∀ rest ∈ ([[], [2]] : List (List Byte)),
    let s := busy .p .reset (.sending (1 :: rest) 3) .idle
    let u := busy .p fullRing (.sending (1 :: rest) 3) .idle
    s.Good ∧ s.turnedTo s ∧ s.port.progress = .sending (1 :: rest) 3 ∧ s.rb.count s.cfg < s.cfg.rbCap ∧
      u.Good ∧ u.turnedTo u ∧ u.rb.count u.cfg = u.cfg.rbCap ∧ u.cfg.queueOnFull = .stop :=
  fun _ _ => ⟨busy_good base_good.rb ⟨rfl, by simp⟩ trivial, .inl ⟨rfl, rfl⟩, rfl,
    (by decide : RingBuffer.reset.count cfg < cfg.rbCap), busy_good fullRing_good ⟨rfl, by simp⟩ trivial, .inl ⟨rfl, rfl⟩,
    (by decide : fullRing.count cfg = cfg.rbCap), rfl⟩

theorem witness_StopAndContinueAgreeWithOneContext : base.twoContexts = false ∧ base.cfg.queueOnFull = .stop ∧
    ∃ t, exec (.sendQueue 9 [1]) base = .next t := ⟨rfl, rfl, _, rfl⟩

/-- The rows of vector 2.5.3, one for each clause. -/
theorem witness_BrokenReportFaults :
    (∀ i, (armedState true 4 2 4 0 []).accepts i) ∧ (armedState true 4 2 4 0 []).pull.pollReturns = true ∧
    (armedState true 4 2 4 0 []).pull.completed > 1 ∧
    ((armedState false 0 1 4 0 []).pull.completed = 1 ∧ (armedState false 0 1 4 0 []).tip = false) ∧
    ((armedState true 4 1 5 0 []).tip = true ∧
      (armedState true 4 1 5 0 []).pull.rxCount > (armedState true 4 1 5 0 []).txLen.toNat) ∧
    ((armedState true 4 0 0 2 []).completionSound ∧ (armedState true 4 0 0 2 []).pull.inFlight > 1) ∧
    ((armedState true 4 1 4 1 []).completionSound ∧ (armedState true 4 1 4 1 []).pull.inFlight = 1 ∧
      (armedState true 4 1 4 1 []).pull.completed = 1) ∧
    (armedState true 4 0 0 0 []).pull.inFlight = 0 ∧ (armedState true 4 0 0 0 []).tip = true ∧
      (armedState true 4 0 0 0 []).pull.completed = 0 :=
  ⟨fun _ => ⟨by decide, rfl⟩, rfl, by decide, by decide, by decide, ⟨.inl rfl, by decide⟩, ⟨.inr (by decide), by decide⟩,
    by decide⟩

theorem witness_PullPollInFlightAnswers : (armedState true 4 0 0 1 []).accepts .pullPoll ∧
    (armedState true 4 0 0 1 []).pull.pollReturns = true ∧ (armedState true 4 0 0 1 []).tip = true ∧
    (armedState true 4 0 0 1 []).pull.completed = 0 ∧ (armedState true 4 0 0 1 []).pull.inFlight = 1 :=
  ⟨⟨by decide, rfl⟩, rfl, rfl, rfl, rfl⟩

theorem armedState_good {len : U16} {c r f : Nat} {rx : List Byte}
    (h : len.toNat % 4 = 0 ∧ 0 < len.toNat ∧ len.toNat ≤ 16) (hr : (bytesAt0 rx).within 16) :
    (armedState true len c r f rx).Good :=
  ⟨base_good.cfg, base_good.pp, base_good.pl, base_good.rb, base_good.tx, hr, fun _ => h, base_good.queued,
    base_good.faultReason, trivial, trivial⟩

/-- An idle transport, and a completed transaction that filled its length. -/
theorem witness_PullPollArmsTheNextTransfer :
    (base.Good ∧ base.twoContexts = false ∧ base.pull.Returns ∧ base.completionSound ∧ base.pull.inFlight = 0 ∧
      (base.pull.completed = 0 → base.tip = false)) ∧
    let s := armedState true 12 1 12 0 frameF
    s.Good ∧ s.twoContexts = false ∧ s.pull.Returns ∧ s.completionSound ∧ s.pull.inFlight = 0 ∧
      (s.pull.completed = 0 → s.tip = false) :=
  ⟨⟨base_good, rfl, ⟨rfl, rfl⟩, .inl rfl, rfl, fun _ => rfl⟩, armedState_good (by decide) (by decide), rfl, ⟨rfl, rfl⟩,
    .inr (by decide), rfl, by decide⟩

/-- A ring of one byte and an idle transport; and XFER_CAP is more than one. -/
theorem witness_PassRunsInStepsWithTwoContexts :
    let s := busy .c oneByte .idle .idle
    s.Good ∧ s.twoContexts = true ∧ s.turn = .c ∧ s.inputs = [] ∧ s.pull.Returns ∧ s.completionSound ∧
      s.pull.inFlight = 0 ∧ (s.pull.completed = 0 → s.tip = false) ∧ s.rb.contents s.cfg ≠ [] ∧ 1 < s.cfg.xferCap :=
  ⟨busy_good oneByte_good trivial trivial, rfl, rfl, rfl, ⟨rfl, rfl⟩, .inl rfl, rfl, fun _ => rfl, by decide, by decide⟩

/-- A pass that is filling: a byte and room for another, no byte, and the last place of the buffer. -/
theorem witness_FillingStepPopsOrArms (pass : Pass) :
    (∀ m ∈ [1, 15], (busy .c oneByte .idle (.filling pass [] m)).Good ∧ (held (.filling pass [] m)).Good ∧
      (held (.filling pass [] m)).turnedTo (held (.filling pass [] m)) ∧
      (held (.filling pass [] m)).port.progress = .filling pass [] m) ∧
    oneByte.contents cfg ≠ [] ∧ RingBuffer.reset.contents cfg = [] ∧ 1 + 1 < cfg.xferCap ∧ 15 + 1 = cfg.xferCap := by
  refine ⟨fun m hm => ?_, by decide⟩
  have hb : 0 < m ∧ m < 16 := by
    simp only [List.mem_cons, List.not_mem_nil, or_false] at hm
    omega
  exact ⟨busy_good oneByte_good trivial ⟨rfl, hb.1, hb.2, rfl⟩, busy_good base_good.rb trivial ⟨rfl, hb.1, hb.2, rfl⟩,
    .inl ⟨rfl, rfl⟩, rfl⟩

/-- A pass with a transaction in flight, one that arms, and a step of each kind. -/
theorem witness_SingleFlight :
    let s := { held .flushing with pull := { base.pull with inFlight := 1 } }
    ((armedState true 4 0 0 1 []).pull.inFlight ≠ 0 ∧ ∃ t, exec .pullPoll (armedState true 4 0 0 1 []) = .next t) ∧
    (∃ t, exec .pullPoll base = .next t) ∧
    s.turnedTo s ∧ s.pull.inFlight ≠ 0 ∧ s.port.progress.arming = false ∧ ∃ t, step s = .next t :=
  ⟨⟨by decide, _, rfl⟩, ⟨_, rfl⟩, .inl ⟨rfl, rfl⟩, by decide, rfl, _, rfl⟩

/-- No byte, and XFER_CAP bytes. -/
theorem witness_TransferLengthIsTheLeastMultiple : paramsValid cfg = true ∧ 0 ≤ cfg.xferCap ∧ 16 ≤ cfg.xferCap := by decide

theorem witness_BuffersStayWhileInFlight :
    let s := armedState true 4 0 0 1 []
    s.Good ∧ s.turnedTo s ∧ s.resetPending = false ∧ s.tip = true ∧ s.pull.completed ≠ 1 ∧
      (∃ t, exec .routerPass s = .next t) ∧ ∃ t, step s = .next t :=
  ⟨armedState_good (by decide) (by decide), .inl ⟨rfl, rfl⟩, rfl, rfl, by decide, ⟨_, rfl⟩, _, rfl⟩

/-- A frame of CHANGE_ID that `decodeChange` refuses, and one that it takes. -/
theorem witness_PullPhaseEndsAtTheFirstChange :
    (∀ f ∈ [(⟨0x11, 1, [0xAA]⟩ : Frame)], f.id = cfg.changeId → decodeChange cfg f.payload = none) ∧
    (0x11 : Byte) = cfg.changeId ∧ decodeChange cfg [1, 0, 0, 0x80, 0x3F] = some ⟨true, 0x3F800000⟩ := by decide

theorem exists_ok {ε α : Type} {x : Except ε α} (p : α → Bool)
    (h : (match x with
      | .ok a => p a
      | .error _ => false) = true) : ∃ a, x = .ok a ∧ p a = true := by
  cases x with
  | error e => cases h
  | ok a => exact ⟨a, rfl, h⟩

/-- Vectors 2.6.2 and 2.6.3: a push phase without a Change, one with a Change, and one whose ninth call does not
return. -/
theorem witness_PushPhaseReadsABoundedPrefix :
    (∃ r, pushPhase cfg 8 .reset { base.push with rxq := [0xA5, 0x5A, 0x02, 0x00, 0x10, 0x01, 0xCD, 0xB0] } = .ok r ∧
      (!r.found) = true) ∧
    (∃ r, pushPhase cfg 14 .reset { base.push with
      rxq := [0xA5, 0x5A, 0x06, 0x00, 0x11, 0x00, 0x00, 0x00, 0x80, 0x3F, 0x22, 0x8A, 0xA5, 0x5A] } = .ok r ∧
      r.found = true) ∧
    ∃ r, pushPhase cfg 9 .reset { base.push with
      rxq := [0xA5, 0x5A, 0x02, 0x00, 0x10, 0x01, 0xCD, 0xB0, 0xA5], readsLeft := some 8 } = .ok r ∧
      (r.stuck == some 1) = true :=
  ⟨exists_ok (fun r : PushResult => !r.found) (by decide +kernel), exists_ok (fun r : PushResult => r.found) (by decide +kernel),
    exists_ok (fun r : PushResult => r.stuck == some 1) (by decide +kernel)⟩

/-- Every call returns; `PushAvailable` does not; the first `PushReadByte` does not. -/
theorem witness_RouterPassInFlightAnswers : ∀ p ∈ [base.push, { base.push with availableReturns := false },
      { base.push with rxq := [0xA5], readsLeft := some 0 }],
    let s := { armedState true 4 0 0 1 [] with push := p }
    s.accepts .routerPass ∧ s.pp.Good cfg ∧ s.pull.pollReturns = true ∧ s.tip = true ∧ s.pull.completed = 0 ∧
      s.pull.inFlight = 1 :=
  fun _ _ => ⟨⟨base_good.cfg, rfl⟩, parserReset_good, rfl, rfl, rfl, rfl⟩

/-- The received bytes of vector 2.6.4's Change. -/
def changeBytes : List Byte := [0xA5, 0x5A, 0x06, 0x00, 0x11, 0x01, 0x00, 0x00, 0x80, 0x3F, 0x1F, 0x4A]

/-- Nothing drained, and a Change drained. -/
theorem witness_RouterPassServesThePullBusFirst :
    (base.Good ∧ base.twoContexts = false ∧ base.pull.Returns ∧ base.push.Returns ∧ base.completionSound ∧
      base.pull.inFlight = 0 ∧ (base.pull.completed = 0 → base.tip = false) ∧ (pullPhase base.cfg []).2 = false) ∧
    let s := armedState true 12 1 12 0 changeBytes
    s.Good ∧ s.twoContexts = false ∧ s.pull.Returns ∧ s.push.Returns ∧ s.completionSound ∧ s.pull.inFlight = 0 ∧
      (s.pull.completed = 0 → s.tip = false) ∧
      ∃ x, s.pl.feed s.cfg s.received = .ok x ∧ (pullPhase s.cfg x.2).2 = true :=
  ⟨⟨base_good, rfl, ⟨rfl, rfl⟩, ⟨rfl, rfl, rfl, rfl⟩, .inl rfl, rfl, fun _ => rfl, rfl⟩,
    armedState_good (by decide) (by decide), rfl, ⟨rfl, rfl⟩, ⟨rfl, rfl, rfl, rfl⟩, .inr (by decide), rfl,
    by decide, exists_ok (fun x : Parser × List Frame => (pullPhase cfg x.2).2) (by decide +kernel)⟩

theorem witness_RdRegAnswers : base.accepts (.rdReg .status) ∧ base.cfg.rbCap < 2 ^ 32 ∧ base.cfg.idxW < 2 ^ 32 ∧
    base.rb.count base.cfg < 2 ^ 32 := ⟨base_accepts _, by decide, by decide, by decide⟩

theorem witness_RaiseKeepsTheFirstReason : base.fault = false ∧
    { base with fault := true, faultReason := 1 }.fault = true := by decide

theorem witness_ForeignCommandConflicts : paramsValid (two .p).cfg = true ∧ (two .p).twoContexts = true ∧
    (two .p).turn = .p ∧ (two .c).turn = .c ∧ base.twoContexts = false := by decide

theorem witness_RingIndexesHaveOneWriter : (∃ t, exec .rbPop { base with rb := ⟨[], 1, 0⟩ } = .next t) ∧
    (∃ t, exec (.rbPush 1) base = .next t) ∧
    ∀ x, (two x).Good ∧ (two x).turnedTo (two x) ∧ (two x).twoContexts = true ∧ (two x).resetPending = false ∧
      (two x).turn = x ∧ ∃ t, step (two x) = .next t :=
  ⟨⟨_, rfl⟩, ⟨_, rfl⟩, fun x => ⟨two_good x, .inl ⟨rfl, rfl⟩, rfl, rfl, rfl, by cases x <;> exact ⟨_, rfl⟩⟩⟩

end Sys2Proof.Tests
end

section
/-! PROOF. The state right after reset has R55's values and the invariant. -/

namespace Sys2Proof.Machine

/-- A parser after reset meets the parser's invariant, whatever the parameters (42_frame_parser R198). -/
theorem Parser.reset_good (cfg : Params) : Parser.reset.Good cfg where
  acc := Memory.within_nil _
  frmPayload := Memory.within_nil _
  len := by simp [Parser.reset]
  idxPayload := by simp [Parser.reset]
  idxCrc := by simp [Parser.reset]
  frmLen := by simp [Parser.reset]

/-- The ring buffer holds nothing after reset (10_state R44, R55). -/
theorem RingBuffer.count_reset (cfg : Params) : RingBuffer.reset.count cfg = 0 := by
  simp [RingBuffer.count, RingBuffer.reset]

/-- The ring buffer after reset meets its invariant, whatever the parameters (41_ring_buffer R169). -/
theorem RingBuffer.reset_good (cfg : Params) : RingBuffer.reset.Good cfg where
  mem := Memory.within_nil _
  head := Nat.two_pow_pos _
  tail := Nat.two_pow_pos _
  count := by simp [RingBuffer.count_reset]

/-- The machine right after reset meets the invariant, for all valid parameters (10_state R55). -/
theorem State.initial_good {cfg : Params} (hv : paramsValid cfg = true) : (State.initial cfg).Good where
  cfg := hv
  pp := Parser.reset_good cfg
  pl := Parser.reset_good cfg
  rb := RingBuffer.reset_good cfg
  tx := Memory.within_nil _
  rx := Memory.within_nil _
  txLen := by simp [State.initial]
  queued := by simp [State.initial]
  faultReason := by simp [State.initial]
  progressP := trivial
  progressC := trivial

/-- The numbers of the spec's test configuration keep the constraints (70_reset R333). -/
theorem Params.vectors_valid : paramsValid Params.vectors = true := by decide

/-- Settles O10: `State.reset` is one of the initial states, and R55's values stand in their definition. -/
theorem initialStateIsGood : Obligations.InitialStateIsGood :=
  ⟨State.initial_good Params.vectors_valid, fun _ hv =>
    ⟨State.initial_good hv, rfl, rfl, rfl, rfl, rfl, rfl, rfl, rfl, rfl, rfl, rfl⟩⟩

end Sys2Proof.Machine
end

section
/-! PROOF. Each end of the ring buffer has one writer: commands of the producer move `head` and write bytes, commands of
the consumer move `tail` (10_state R42, R43, R56). A consumer's work is stated as `∃ tail, t.rb = { s.rb with tail := tail }`,
a producer's as `t.rb.tail = s.rb.tail`. -/

namespace Sys2Proof.Machine

/-! ### What each operation leaves of the ring buffer -/

@[simp] theorem State.flush_rb (s : State) : s.flush.rb = s.rb := by
  unfold State.flush
  split_ifs <;> rfl

@[simp] theorem State.writeAndFlush_rb (s : State) (frame : List Byte) : (s.writeAndFlush frame).rb = s.rb := by
  obtain ⟨push, q, h⟩ := s.writeAndFlush_eq frame
  rw [h]
  rfl

theorem EndsOrWaits.rb {u t : State} {b8 : Byte} (h : EndsOrWaits u t b8) : t.rb = u.rb := by
  obtain ⟨q, rfl⟩ := h.setPort
  rfl

theorem readPush_rb {k used : Nat} {armed : Bool} {events : List RouterEvent} {s t : State}
    (h : readPush k used armed events s = .ok t) : t.rb = s.rb := by
  obtain ⟨r, -, ⟨left, -, rfl⟩ | ⟨-, rfl⟩⟩ := readPush_eq_ok.1 h <;> rfl

theorem countPush_rb {armed : Bool} {events : List RouterEvent} {s t : State}
    (h : countPush armed events s = .ok t) : t.rb = s.rb := by
  rcases countPush_eq_ok.1 h with ⟨-, h⟩ | ⟨-, rfl⟩
  · exact readPush_rb h
  · rfl

theorem queueTransfer_rb {pass : Pass} {frames : List Frame} {s t : State}
    (h : queueTransfer pass (afterPass pass) frames s = .ok t) : t.rb = s.rb := by
  rcases queueTransfer_frame h with ⟨-, pp, push, h⟩ | ⟨-, rfl⟩
  · exact h.rb
  · rfl

theorem fillStep_rb {pass : Pass} {frames : List Frame} {m : Nat} {s t : State}
    (h : fillStep pass (afterPass pass) frames m s = .ok t) : ∃ tail, t.rb = { s.rb with tail := tail } := by
  obtain ⟨tail, tx, txLen, ⟨m', rfl⟩ | h⟩ := fillStep_frame h
  · exact ⟨tail, rfl⟩
  · exact ⟨tail, queueTransfer_rb h⟩

theorem schedPass_rb {pass : Pass} {s t : State} (h : schedPass pass (afterPass pass) s = .ok t) :
    ∃ tail, t.rb = { s.rb with tail := tail } := by
  rcases schedPass_frame h with ⟨-, rfl⟩ | ⟨reason, -, rfl⟩ |
    ⟨-, pl, tip, frames, -, -, ⟨-, pp, push, h⟩ | ⟨-, tail, tx, txLen, ⟨-, m', rfl⟩ | h⟩⟩
  · exact ⟨s.rb.tail, rfl⟩
  · exact ⟨s.rb.tail, rfl⟩
  · exact ⟨s.rb.tail, h.rb⟩
  · exact ⟨tail, rfl⟩
  · exact ⟨tail, queueTransfer_rb h⟩

theorem enqueueStep_tail {rest : List Byte} {k : Nat} {s t : State} (h : enqueueStep rest k s = .ok t) :
    t.rb.tail = s.rb.tail := by
  obtain ⟨rb, drop, htail, ⟨k', rfl⟩ | ⟨rest', k', -, rfl⟩⟩ := enqueueStep_frame h <;> exact htail

theorem enqueueAll_tail {bytes : List Byte} {k : Nat} {s t : State} (h : enqueueAll bytes k s = .ok t) :
    t.rb.tail = s.rb.tail := by
  obtain ⟨rb, drop, k', htail, rfl⟩ := enqueueAll_frame h
  exact htail

/-! ### Commands -/

/-- The commands that write the producer's end of the ring buffer (20_memory R77). -/
def FillsRing (i : Instr) : Prop := (∃ b, i = .rbPush b) ∨ ∃ id payload, i = .sendQueue id payload

/-- The commands that write the consumer's end of the ring buffer (20_memory R77). -/
def DrainsRing (i : Instr) : Prop := i = .rbPop ∨ i = .pullPoll ∨ i = .routerPass

/-- What a command can do to the ring buffer: nothing, or one end of it, and that only where the issuing context may
issue the command. -/
theorem exec_rb {i : Instr} {s t : State} (h : exec i s = .next t) :
    t.rb = s.rb ∨
    s.admits i = true ∧ FillsRing i ∧ t.rb.tail = s.rb.tail ∨
    s.admits i = true ∧ DrainsRing i ∧ ∃ tail, t.rb = { s.rb with tail := tail } := by
  obtain ⟨-, ⟨-, rfl⟩ | ⟨ha, hrun⟩⟩ := exec_frame h
  · exact .inl rfl
  rcases hrun with ⟨-, st, b8, h16, data, rfl⟩ | ⟨b, pushed, rb, rfl, hp, rfl⟩ | ⟨popped, rb, st, b8, rfl, hp, rfl⟩ |
    ⟨sel, b, P, done, rfl, -, rfl⟩ | ⟨-, rfl⟩ | ⟨id, payload, rfl, rfl⟩ | ⟨id, payload, rfl, -, hrun⟩ |
    ⟨id, payload, rfl, -, hrun⟩ | ⟨rfl, hrun⟩ | ⟨rfl, hrun⟩
  · exact .inl rfl
  · exact .inr (.inl ⟨ha, .inl ⟨b, rfl⟩, (rbPush_frame hp).1⟩)
  · exact .inr (.inr ⟨ha, .inl rfl, (rbPop_frame hp).1⟩)
  · exact .inl rfl
  · exact .inl rfl
  · exact .inl (s.writeAndFlush_rb _)
  · exact .inr (.inl ⟨ha, .inr ⟨id, payload, rfl⟩, enqueueStep_tail hrun⟩)
  · exact .inr (.inl ⟨ha, .inr ⟨id, payload, rfl⟩, enqueueAll_tail hrun⟩)
  · exact .inr (.inr ⟨ha, .inr (.inl rfl), schedPass_rb hrun⟩)
  · exact .inr (.inr ⟨ha, .inr (.inr rfl), schedPass_rb hrun⟩)

/-- A command that does not fill the ring buffer leaves `head` and the bytes. -/
theorem exec_keeps_head {i : Instr} {s t : State} (h : exec i s = .next t)
    (hi : s.admits i = true → ¬ FillsRing i) : t.rb.head = s.rb.head ∧ t.rb.mem = s.rb.mem := by
  rcases exec_rb h with h | ⟨ha, hf, -⟩ | ⟨-, -, tail, h⟩
  · simp [h]
  · exact absurd hf (hi ha)
  · simp [h]

/-- A command that does not drain the ring buffer leaves `tail`. -/
theorem exec_keeps_tail {i : Instr} {s t : State} (h : exec i s = .next t)
    (hi : s.admits i = true → ¬ DrainsRing i) : t.rb.tail = s.rb.tail := by
  rcases exec_rb h with h | ⟨-, -, h⟩ | ⟨ha, hd, -⟩
  · rw [h]
  · exact h
  · exact absurd hd (hi ha)

/-- With two contexts only P may issue the commands that fill the ring buffer (20_memory R77). -/
theorem not_fillsRing_of_turn_c {s : State} {i : Instr} (h2 : s.twoContexts = true) (hc : s.turn = .c)
    (ha : s.admits i = true) : ¬ FillsRing i := by
  rintro (⟨b, rfl⟩ | ⟨id, payload, rfl⟩) <;> simp [State.admits, h2, hc, Context.mayIssue] at ha

/-- With two contexts only C may issue the commands that drain the ring buffer (20_memory R77). -/
theorem not_drainsRing_of_turn_p {s : State} {i : Instr} (h2 : s.twoContexts = true) (hp : s.turn = .p)
    (ha : s.admits i = true) : ¬ DrainsRing i := by
  rintro (rfl | rfl | rfl) <;> simp [State.admits, h2, hp, Context.mayIssue] at ha

/-! ### Steps -/

/-- The invariant does not speak of the turn or of what the outside does next. -/
theorem State.Good.of_turnedTo {s u : State} (hg : s.Good) (h : s.turnedTo u) : u.Good := by
  rcases h with ⟨-, rfl⟩ | ⟨x, later, -, rfl⟩
  · exact hg
  · exact ⟨hg.cfg, hg.pp, hg.pl, hg.rb, hg.tx, hg.rx, hg.txLen, hg.queued, hg.faultReason, hg.progressP, hg.progressC⟩

/-- What C may have in progress leaves `head` and the bytes as it goes on. -/
theorem resume_keeps_head {s t : State} (hg : s.port.progress.good s .c) (h : resume s = .ok t) :
    t.rb.head = s.rb.head ∧ t.rb.mem = s.rb.mem := by
  suffices h : ∃ tail, t.rb = { s.rb with tail := tail } by
    obtain ⟨tail, h⟩ := h
    simp [h]
  unfold resume at h
  cases hp : s.port.progress <;> rw [hp] at hg h
  case sending => exact hg.elim
  case filling => exact fillStep_rb h
  case polling => exact schedPass_rb h
  case queueing => exact ⟨s.rb.tail, queueTransfer_rb h⟩
  case counting => exact ⟨s.rb.tail, countPush_rb h⟩
  case reading => exact ⟨s.rb.tail, readPush_rb h⟩
  all_goals
    simp only [Except.ok.injEq] at h
    exact ⟨s.rb.tail, by simp [← h]⟩

/-- What P may have in progress leaves `tail` as it goes on. -/
theorem resume_keeps_tail {s t : State} (hg : s.port.progress.good s .p) (h : resume s = .ok t) :
    t.rb.tail = s.rb.tail := by
  unfold resume at h
  cases hp : s.port.progress <;> rw [hp] at hg h
  case idle =>
    simp only [Except.ok.injEq] at h
    rw [h]
  case sending => exact enqueueStep_tail h
  all_goals exact hg.elim

/-- With no reset waiting, a context's turn is a command in progress going on, a new command, or a word that is no
command, which leaves the ring buffer. -/
theorem takeTurn_rb_cases {s t : State} (hr : s.resetPending = false) (h : takeTurn s = .next t) :
    resume s = .ok t ∨ (∃ i rest, exec i (s.setStream rest) = .next t) ∨ t.rb = s.rb := by
  rcases takeTurn_cases s with ⟨-, e⟩ | ⟨-, hr', -⟩ | ⟨-, -, ⟨-, e⟩ | ⟨why, -, e⟩ | ⟨i, rest, -, e⟩⟩
  · exact .inl (outcome_eq_next.1 (e ▸ h))
  · simp [hr] at hr'
  · exact .inr (.inr (by cases e.symm.trans h; rfl))
  · exact .inr (.inr (by cases e.symm.trans h; rfl))
  · exact .inr (.inl ⟨i, rest, e ▸ h⟩)

/-- With two contexts the command in progress at the port in use is one its context may have. -/
theorem State.Good.progress_of_turn {s : State} (hg : s.Good) (h2 : s.twoContexts = true) :
    s.port.progress.good s s.turn := by
  have hi : s.issuer = s.turn := by simp [State.issuer, h2]
  rw [State.port, hi]
  cases s.turn
  · exact hg.progressP
  · exact hg.progressC

theorem takeTurn_c_keeps_head {s t : State} (hg : s.Good) (h2 : s.twoContexts = true) (hr : s.resetPending = false)
    (hc : s.turn = .c) (h : takeTurn s = .next t) : t.rb.head = s.rb.head ∧ t.rb.mem = s.rb.mem := by
  rcases takeTurn_rb_cases hr h with h | ⟨i, rest, h⟩ | h
  · exact resume_keeps_head (hc ▸ hg.progress_of_turn h2) h
  · simpa using exec_keeps_head h (not_fillsRing_of_turn_c (by simpa using h2) (by simpa using hc))
  · simp [h]

theorem takeTurn_p_keeps_tail {s t : State} (hg : s.Good) (h2 : s.twoContexts = true) (hr : s.resetPending = false)
    (hp : s.turn = .p) (h : takeTurn s = .next t) : t.rb.tail = s.rb.tail := by
  rcases takeTurn_rb_cases hr h with h | ⟨i, rest, h⟩ | h
  · exact resume_keeps_tail (hp ▸ hg.progress_of_turn h2) h
  · simpa using exec_keeps_tail h (not_drainsRing_of_turn_p (by simpa using h2) (by simpa using hp))
  · rw [h]

/-- Settles O60: of the commands by what `exec` can do to the ring buffer, of the steps by what each context may issue
or have in progress. -/
theorem ringIndexesHaveOneWriter : Obligations.RingIndexesHaveOneWriter := by
  refine ⟨fun i s t h => ⟨fun hpush hqueue => ?_, fun hpop hpoll hrouter => ?_⟩,
    fun s u t hg hu h2 hr h => ?_⟩
  · refine exec_keeps_head h fun _ => ?_
    rintro (⟨b, hi⟩ | ⟨id, payload, hi⟩)
    · exact hpush b hi
    · exact hqueue id payload hi
  · refine exec_keeps_tail h fun _ => ?_
    rintro (hi | hi | hi)
    · exact hpop hi
    · exact hpoll hi
    · exact hrouter hi
  · rw [step_of_turnedTo hg.cfg hu] at h
    have hug : u.Good := hg.of_turnedTo hu
    exact ⟨fun hc => takeTurn_c_keeps_head hug h2 hr hc h, fun hp => takeTurn_p_keeps_tail hug h2 hr hp h⟩

end Sys2Proof.Machine
end

section
/-! SUPPORT. The ring buffer as a queue of bytes: what its invariant says of `count`, and what one push and any number of
pops do to the bytes it holds (41_ring_buffer R160 to R163, R169). -/

namespace Sys2Proof.Machine

/-! ### The number of bytes held -/

theorem RingBuffer.count_lt (cfg : Params) (rb : RingBuffer) : rb.count cfg < 2 ^ cfg.idxW :=
  Nat.mod_lt _ (Nat.two_pow_pos _)

/-- `count` is the distance from `tail` to `head`, modulo 2^IDX_W (10_state R44). -/
theorem RingBuffer.count_eq_of {cfg : Params} {rb : RingBuffer} {n : Nat} (hn : n < 2 ^ cfg.idxW)
    (hh : (rb.tail + n) % 2 ^ cfg.idxW = rb.head) : rb.count cfg = n := by
  have ht : rb.tail % 2 ^ cfg.idxW < 2 ^ cfg.idxW := Nat.mod_lt _ (Nat.two_pow_pos _)
  have hsum : rb.tail + n + (2 ^ cfg.idxW - rb.tail % 2 ^ cfg.idxW) =
      n + 2 ^ cfg.idxW * (rb.tail / 2 ^ cfg.idxW + 1) := by
    have := Nat.div_add_mod rb.tail (2 ^ cfg.idxW)
    rw [Nat.mul_add_one]
    omega
  rw [RingBuffer.count, ← hh, Nat.mod_add_mod, hsum, Nat.add_mul_mod_self_left, Nat.mod_eq_of_lt hn]

/-- `head` is `count` places after `tail`. -/
theorem RingBuffer.Good.tail_add_count {cfg : Params} {rb : RingBuffer} (hg : rb.Good cfg) :
    (rb.tail + rb.count cfg) % 2 ^ cfg.idxW = rb.head := by
  have hsum : rb.tail + (rb.head + (2 ^ cfg.idxW - rb.tail)) = rb.head + 2 ^ cfg.idxW := by
    have := hg.tail
    omega
  rw [RingBuffer.count, Nat.add_mod_mod, Nat.mod_eq_of_lt hg.tail, hsum, Nat.add_mod_right, Nat.mod_eq_of_lt hg.head]

theorem RingBuffer.Good.count_eq_zero_iff {cfg : Params} {rb : RingBuffer} (hg : rb.Good cfg) :
    rb.count cfg = 0 ↔ rb.head = rb.tail := by
  constructor
  · intro h
    rw [← hg.tail_add_count, h, Nat.add_zero, Nat.mod_eq_of_lt hg.tail]
  · intro h
    exact RingBuffer.count_eq_of (Nat.two_pow_pos _) (by rw [h, Nat.add_zero, Nat.mod_eq_of_lt hg.tail])

/-! ### The bytes held -/

@[simp] theorem RingBuffer.contents_length (cfg : Params) (rb : RingBuffer) :
    (rb.contents cfg).length = rb.count cfg := by
  simp [RingBuffer.contents]

@[simp] theorem RingBuffer.contents_getElem (cfg : Params) (rb : RingBuffer) (k : Nat)
    (h : k < (rb.contents cfg).length) :
    (rb.contents cfg)[k] = Memory.read rb.mem ((rb.tail + k) % cfg.rbCap) := by
  simp [RingBuffer.contents]

theorem RingBuffer.contents_eq_nil_iff {cfg : Params} {rb : RingBuffer} : rb.contents cfg = [] ↔ rb.count cfg = 0 := by
  rw [← List.length_eq_zero_iff, RingBuffer.contents_length]

theorem RingBuffer.contents_ne_nil_iff {cfg : Params} {rb : RingBuffer} : rb.contents cfg ≠ [] ↔ 0 < rb.count cfg := by
  rw [ne_eq, RingBuffer.contents_eq_nil_iff, Nat.pos_iff_ne_zero]

/-- An index reduced modulo 2^IDX_W first names the same slot: RB_CAP divides 2^IDX_W (00_scope R8, R9). -/
theorem slot_mod {cfg : Params} (hv : paramsValid cfg = true) (i k : Nat) :
    (i % 2 ^ cfg.idxW + k) % cfg.rbCap = (i + k) % cfg.rbCap := by
  rw [Nat.add_mod, Nat.mod_mod_of_dvd _ (rbCap_facts hv).2.1, ← Nat.add_mod]

/-- Two slots less than RB_CAP places apart differ. -/
theorem slot_ne {cap i j k : Nat} (hjk : j < k) (hk : k < cap) : (i + j) % cap ≠ (i + k) % cap := by
  intro h
  have hj : j % cap = k % cap := Nat.ModEq.add_left_cancel' i h
  rw [Nat.mod_eq_of_lt (hjk.trans hk), Nat.mod_eq_of_lt hk] at hj
  omega

/-! ### Pops -/

/-- The ring buffer after its `n` oldest bytes were popped (41_ring_buffer R163). -/
def RingBuffer.dropOldest (cfg : Params) (rb : RingBuffer) (n : Nat) : RingBuffer :=
  { rb with tail := (rb.tail + n) % 2 ^ cfg.idxW }

theorem RingBuffer.Good.dropOldest_zero {cfg : Params} {rb : RingBuffer} (hg : rb.Good cfg) :
    rb.dropOldest cfg 0 = rb := by
  simp [RingBuffer.dropOldest, Nat.mod_eq_of_lt hg.tail]

theorem RingBuffer.dropOldest_dropOldest (cfg : Params) (rb : RingBuffer) (m n : Nat) :
    (rb.dropOldest cfg m).dropOldest cfg n = rb.dropOldest cfg (m + n) := by
  simp [RingBuffer.dropOldest, Nat.add_assoc]

theorem RingBuffer.Good.count_dropOldest {cfg : Params} {rb : RingBuffer} (hg : rb.Good cfg) {n : Nat}
    (hn : n ≤ rb.count cfg) : (rb.dropOldest cfg n).count cfg = rb.count cfg - n := by
  refine RingBuffer.count_eq_of (by have := rb.count_lt cfg; omega) ?_
  show ((rb.tail + n) % 2 ^ cfg.idxW + (rb.count cfg - n)) % 2 ^ cfg.idxW = rb.head
  rw [Nat.mod_add_mod, show rb.tail + n + (rb.count cfg - n) = rb.tail + rb.count cfg by omega, hg.tail_add_count]

theorem RingBuffer.Good.dropOldest {cfg : Params} {rb : RingBuffer} (hg : rb.Good cfg) {n : Nat}
    (hn : n ≤ rb.count cfg) : (rb.dropOldest cfg n).Good cfg where
  mem := hg.mem
  head := hg.head
  tail := Nat.mod_lt _ (Nat.two_pow_pos _)
  count := by
    rw [hg.count_dropOldest hn]
    have := hg.count
    omega

/-- Pops take the bytes from the front of the queue. -/
theorem RingBuffer.Good.contents_dropOldest {cfg : Params} {rb : RingBuffer} (hv : paramsValid cfg = true)
    (hg : rb.Good cfg) {n : Nat} (hn : n ≤ rb.count cfg) :
    (rb.dropOldest cfg n).contents cfg = (rb.contents cfg).drop n := by
  refine List.ext_getElem (by simp [hg.count_dropOldest hn]) fun k h1 h2 => ?_
  simp only [List.getElem_drop, RingBuffer.contents_getElem]
  show Memory.read rb.mem (((rb.tail + n) % 2 ^ cfg.idxW + k) % cfg.rbCap) = _
  rw [slot_mod hv, Nat.add_assoc]

/-- `rbPop` on an empty ring buffer (41_ring_buffer R163). -/
theorem RingBuffer.Good.rbPop_of_empty {cfg : Params} {rb : RingBuffer} (hg : rb.Good cfg) (h : rb.count cfg = 0) :
    rbPop cfg rb = .ok (none, rb) :=
  rbPop_eq_ok.2 (.inl ⟨hg.count_eq_zero_iff.1 h, rfl, rfl⟩)

/-- `rbPop` gives the oldest byte (41_ring_buffer R163). -/
theorem RingBuffer.Good.rbPop_of_cons {cfg : Params} {rb : RingBuffer} (hv : paramsValid cfg = true)
    (hg : rb.Good cfg) {b : Byte} {later : List Byte} (h : rb.contents cfg = b :: later) :
    rbPop cfg rb = .ok (some b, rb.dropOldest cfg 1) := by
  have hne : rb.count cfg ≠ 0 := by simp [← RingBuffer.contents_length, h]
  have hb : b = Memory.read rb.mem (rb.tail % cfg.rbCap) := by
    have := RingBuffer.contents_getElem cfg rb 0 (by simp [h])
    simpa [h] using this
  exact rbPop_eq_ok.2 (.inr ⟨fun he => hne (hg.count_eq_zero_iff.2 he), Nat.mod_lt _ (rbCap_facts hv).1, by rw [hb],
    rfl⟩)

/-! ### Pushes -/

/-- `rbPush` on a full ring buffer (41_ring_buffer R162). -/
theorem rbPush_of_full {cfg : Params} {rb : RingBuffer} (h : rb.count cfg = cfg.rbCap) (b : Byte) :
    rbPush cfg rb b = .ok (false, rb) :=
  rbPush_eq_ok.2 (.inl ⟨h, rfl, rfl⟩)

/-- A byte pushed where there is room is the newest of the queue; no other slot changes (41_ring_buffer R162). -/
theorem RingBuffer.Good.rbPush_of_room {cfg : Params} {rb : RingBuffer} (hv : paramsValid cfg = true)
    (hg : rb.Good cfg) (h : rb.count cfg < cfg.rbCap) (b : Byte) :
    ∃ rb', rbPush cfg rb b = .ok (true, rb') ∧ RingBuffer.Pushed cfg rb rb' [b] ∧ rb'.Good cfg ∧
      rb'.count cfg = rb.count cfg + 1 := by
  obtain ⟨hpos, hdvd, htwice⟩ := rbCap_facts hv
  have hslot : rb.head % cfg.rbCap = (rb.tail + rb.count cfg) % cfg.rbCap := by
    have := slot_mod hv (rb.tail + rb.count cfg) 0
    rwa [hg.tail_add_count] at this
  refine ⟨_, rbPush_eq_ok.2 (.inr ⟨h.ne, Nat.mod_lt _ hpos, rfl, rfl⟩), ?_⟩
  generalize hrb' : ({ rb with
    mem := Memory.write rb.mem (rb.head % cfg.rbCap) b
    head := (rb.head + 1) % 2 ^ cfg.idxW } : RingBuffer) = rb'
  have hmem : rb'.mem = Memory.write rb.mem (rb.head % cfg.rbCap) b := by rw [← hrb']
  have hhead : rb'.head = (rb.head + 1) % 2 ^ cfg.idxW := by rw [← hrb']
  have htail : rb'.tail = rb.tail := by rw [← hrb']
  have hread (k : Nat) : Memory.read rb'.mem k = if k = rb.head % cfg.rbCap then b else Memory.read rb.mem k := by
    rw [hmem, Memory.read_write hg.mem.1]
  have hcount : rb'.count cfg = rb.count cfg + 1 := by
    refine RingBuffer.count_eq_of (by omega) ?_
    rw [hhead, htail, ← hg.tail_add_count, Nat.mod_add_mod, Nat.add_assoc]
  refine ⟨⟨?contents, hhead, htail, fun k hk => ?others⟩, ⟨?mem, ?head, ?tail, ?count⟩, hcount⟩
  case contents =>
    refine List.ext_getElem (by simp [hcount]) fun k h1 h2 => ?_
    rw [RingBuffer.contents_getElem, htail, hread, hslot]
    rw [RingBuffer.contents_length, hcount] at h1
    by_cases hk : k < rb.count cfg
    · rw [if_neg (slot_ne hk h), List.getElem_append_left (by simpa using hk), RingBuffer.contents_getElem]
    · obtain rfl : k = rb.count cfg := by omega
      rw [if_pos rfl]
      simp
  case others => rw [hread, if_neg (by simpa using hk 0 (by simp))]
  case mem => rw [hmem]; exact Memory.within_write hg.mem (Nat.mod_lt _ hpos) b
  case head => rw [hhead]; exact Nat.mod_lt _ (Nat.two_pow_pos _)
  case tail => rw [htail]; exact hg.tail
  case count => rw [hcount]; exact h

/-- Nothing pushed. -/
theorem RingBuffer.Good.pushed_nil {cfg : Params} {rb : RingBuffer} (hg : rb.Good cfg) :
    RingBuffer.Pushed cfg rb rb [] where
  contents := by simp
  head := by simp [Nat.mod_eq_of_lt hg.head]
  tail := rfl
  others := fun _ _ => rfl

/-- One byte pushed and then more. -/
theorem RingBuffer.Pushed.cons {cfg : Params} (hv : paramsValid cfg = true) {rb rb' rb'' : RingBuffer} {b : Byte}
    {bytes : List Byte} (h : RingBuffer.Pushed cfg rb rb' [b]) (h' : RingBuffer.Pushed cfg rb' rb'' bytes) :
    RingBuffer.Pushed cfg rb rb'' (b :: bytes) where
  contents := by rw [h'.contents, h.contents, List.append_assoc, List.singleton_append]
  head := by
    rw [h'.head, h.head, Nat.mod_add_mod, List.length_singleton, List.length_cons, Nat.add_assoc, Nat.add_comm 1]
  tail := h'.tail.trans h.tail
  others := fun k hk => by
    have hrest : ∀ j < bytes.length, k ≠ (rb'.head + j) % cfg.rbCap := by
      intro j hj
      have := hk (j + 1) (by simpa using hj)
      rwa [h.head, slot_mod hv, List.length_singleton, Nat.add_assoc, Nat.add_comm 1]
    rw [h'.others k hrest, h.others k fun j hj => hk j (by rw [List.length_singleton] at hj; simp; omega)]

end Sys2Proof.Machine
end

section
/-! SUPPORT. The parsers on good states: `processByte` computes no index outside its array and keeps the invariant, so
that feeding bytes, the published frame and the push phase all complete (42_frame_parser R181, R198; 20_memory R71). -/

namespace Sys2Proof.Machine

/-! ### The parser's invariant, state by state -/

/-- The payload length `len - 1` of a `len` that passed the length check (42_frame_parser R185, R189). -/
theorem toNat_pred {len : U16} (h : 1 ≤ len.toNat) : (len - 1).toNat = len.toNat - 1 :=
  BitVec.toNat_sub_of_le (by simpa [BitVec.le_def] using h)

/-- In SEEK1, SEEK2, LEN_LO and LEN_HI the invariant speaks of the arrays and of the published frame only. -/
theorem Parser.Good.of_searching {cfg : Params} {P : Parser} (hacc : P.acc.within cfg.maxPayload)
    (hfrm : P.frmPayload.within cfg.maxPayload) (hlen : P.frmValid = true → P.frmLen.toNat ≤ cfg.maxPayload)
    (hps : P.ps = .seek1 ∨ P.ps = .seek2 ∨ P.ps = .lenLo ∨ P.ps = .lenHi) : P.Good cfg where
  acc := hacc
  frmPayload := hfrm
  len := fun h => by rcases hps with e | e | e | e <;> simp [e] at h
  idxPayload := fun h => by rcases hps with e | e | e | e <;> simp [e] at h
  idxCrc := fun h => by rcases hps with e | e | e | e <;> simp [e] at h
  frmLen := hlen

theorem Parser.Good.seek1Byte {cfg : Params} {P : Parser} (hg : P.Good cfg) (b : Byte) : (P.seek1Byte b).Good cfg := by
  unfold Parser.seek1Byte
  split_ifs <;> exact .of_searching hg.acc hg.frmPayload hg.frmLen (by simp)

theorem Parser.Good.seek2Byte {cfg : Params} {P : Parser} (hg : P.Good cfg) (b : Byte) :
    (P.seek2Byte cfg b).Good cfg := by
  unfold Parser.seek2Byte
  split_ifs <;> exact .of_searching hg.acc hg.frmPayload hg.frmLen (by simp)

theorem Parser.Good.lenLoByte {cfg : Params} {P : Parser} (hg : P.Good cfg) (b : Byte) : (P.lenLoByte b).Good cfg :=
  .of_searching hg.acc hg.frmPayload hg.frmLen (by simp [Parser.lenLoByte])

/-- The length check of LEN_HI gives the invariant's bounds on `len` (42_frame_parser R185). -/
theorem Parser.Good.lenHiByte {cfg : Params} {P : Parser} (hg : P.Good cfg) (b : Byte) :
    (P.lenHiByte cfg b).Good cfg := by
  unfold Parser.lenHiByte
  dsimp only
  split_ifs with h
  · exact .of_searching hg.acc hg.frmPayload hg.frmLen (by simp)
  · rw [not_or, ← BitVec.toNat_inj] at h
    exact ⟨hg.acc, hg.frmPayload, fun _ => ⟨Nat.pos_of_ne_zero h.1, not_lt.1 h.2⟩, by simp, by simp, hg.frmLen⟩

theorem Parser.Good.idByte {cfg : Params} {P : Parser} (hg : P.Good cfg) (hps : P.ps = .id) (b : Byte) :
    (P.idByte b).Good cfg := by
  obtain ⟨hpos, hmax⟩ := hg.len (.inl hps)
  unfold Parser.idByte
  split_ifs with h
  · exact ⟨hg.acc, hg.frmPayload, fun _ => ⟨hpos, hmax⟩, by simp, fun _ => by simp [h], hg.frmLen⟩
  · rw [← BitVec.toNat_inj, show (1 : U16).toNat = 1 from rfl] at h
    refine ⟨hg.acc, hg.frmPayload, fun _ => ⟨hpos, hmax⟩, fun _ => ?_, by simp, hg.frmLen⟩
    show 0 + 1 < P.len.toNat
    omega

/-- A payload byte goes to an index inside `acc`, and the count of bytes stays in step with `len`
(42_frame_parser R187). -/
theorem Parser.Good.payloadByte {cfg : Params} {P : Parser} (hg : P.Good cfg)
    (hps : P.ps = .payload) (b : Byte) : ∃ Q, P.payloadByte cfg b = .ok Q ∧ Q.Good cfg := by
  obtain ⟨hpos, hmax⟩ := hg.len (.inr (.inl hps))
  have hidx : P.idx.toNat + 1 < P.len.toNat := hg.idxPayload hps
  have hlt : P.idx.toNat < cfg.maxPayload := by omega
  have hnext : (P.idx + 1).toNat = P.idx.toNat + 1 := by
    rw [BitVec.toNat_add, show (1 : U16).toNat = 1 from rfl, Nat.mod_eq_of_lt (by omega)]
  have hlast : P.idx + 1 = P.len - 1 ↔ P.idx.toNat + 2 = P.len.toNat := by
    rw [← BitVec.toNat_inj, hnext, toNat_pred hpos]
    omega
  refine ⟨_, payloadByte_eq_ok.2 ⟨hlt, rfl⟩, Memory.within_write hg.acc hlt b, hg.frmPayload, fun _ => ⟨hpos, hmax⟩,
    fun h => ?_, fun h => ?_, hg.frmLen⟩
  · show (P.idx + 1).toNat + 1 < P.len.toNat
    dsimp only at h
    split_ifs at h with he
    rw [hlast] at he
    omega
  · show (P.idx + 1).toNat + 1 = P.len.toNat
    dsimp only at h
    split_ifs at h with he
    · rw [hlast] at he
      omega
    · simp at h

theorem Parser.Good.crcLoByte {cfg : Params} {P : Parser} (hg : P.Good cfg) (hps : P.ps = .crcLo) (b : Byte) :
    (P.crcLoByte b).Good cfg :=
  ⟨hg.acc, hg.frmPayload, fun _ => hg.len (.inr (.inr (.inl hps))), by simp [Parser.crcLoByte],
    fun _ => hg.idxCrc (.inl hps), hg.frmLen⟩

/-- The check reads inside `acc`; a frame it publishes fits `frm_payload` (42_frame_parser R189). -/
theorem Parser.Good.crcHiByte {cfg : Params} {P : Parser} (hg : P.Good cfg) (hps : P.ps = .crcHi) (b : Byte) :
    ∃ Q done, P.crcHiByte cfg b = .ok (Q, done) ∧ Q.Good cfg ∧ (done = true → Q.frmValid = true) := by
  obtain ⟨hpos, hmax⟩ := hg.len (.inr (.inr (.inr hps)))
  have hn : (P.len - 1).toNat ≤ cfg.maxPayload := by
    rw [toNat_pred hpos]
    omega
  by_cases hc : u16Of P.crclo b = crc16 cfg.crcProfile P.id (Memory.readPrefix P.acc (P.len - 1).toNat)
  · refine ⟨_, true, crcHiByte_eq_ok.2 ⟨hn, by rw [if_pos hc]; exact ⟨rfl, rfl⟩⟩, ?_, fun _ => rfl⟩
    exact .of_searching hg.acc (Memory.within_writeBytes hg.frmPayload 0 _ (by simpa using hn)) (fun _ => hn) (by simp)
  · refine ⟨_, false, crcHiByte_eq_ok.2 ⟨hn, by rw [if_neg hc]; exact ⟨rfl, rfl⟩⟩, ?_, by simp⟩
    exact .of_searching hg.acc hg.frmPayload hg.frmLen (by simp)

/-! ### Bytes through a parser -/

/-- `processByte` completes on every byte and keeps the invariant; a completed frame is published. -/
theorem Parser.Good.processByte {cfg : Params} {P : Parser} (hg : P.Good cfg)
    (b : Byte) :
    ∃ Q done, P.processByte cfg b = .ok (Q, done) ∧ Q.Good cfg ∧ (done = true → Q.frmValid = true) := by
  unfold Parser.processByte
  cases hps : P.ps with
  | seek1 => exact ⟨_, _, rfl, hg.seek1Byte b, by simp⟩
  | seek2 => exact ⟨_, _, rfl, hg.seek2Byte b, by simp⟩
  | lenLo => exact ⟨_, _, rfl, hg.lenLoByte b, by simp⟩
  | lenHi => exact ⟨_, _, rfl, hg.lenHiByte b, by simp⟩
  | id => exact ⟨_, _, rfl, hg.idByte hps b, by simp⟩
  | payload =>
    obtain ⟨Q, hQ, hgQ⟩ := hg.payloadByte hps b
    exact ⟨Q, false, except_bind_eq_ok.2 ⟨Q, hQ, rfl⟩, hgQ, by simp⟩
  | crcLo => exact ⟨_, _, rfl, hg.crcLoByte hps b, by simp⟩
  | crcHi => exact hg.crcHiByte hps b

/-- A published frame can be read (10_state R40). -/
theorem Parser.Good.frame {cfg : Params} {P : Parser} (hg : P.Good cfg) (h : P.frmValid = true) :
    ∃ f, P.frame cfg = .ok f := ⟨_, frame_eq_ok.2 ⟨hg.frmLen h, rfl⟩⟩

/-- Feeding bytes completes and keeps the invariant (44_pull_bus_scheduler R232). -/
theorem Parser.Good.feed {cfg : Params} {P : Parser} (hg : P.Good cfg)
    (bytes : List Byte) : ∃ Q frames, P.feed cfg bytes = .ok (Q, frames) ∧ Q.Good cfg := by
  induction bytes generalizing P with
  | nil => exact ⟨P, [], rfl, hg⟩
  | cons b t ih =>
    obtain ⟨Q, done, hQ, hgQ, hdone⟩ := hg.processByte b
    obtain ⟨R, frames, hR, hgR⟩ := ih hgQ
    cases done with
    | false => exact ⟨R, frames, feed_cons_eq_ok.2 ⟨Q, false, hQ, .inl ⟨rfl, hR⟩⟩, hgR⟩
    | true =>
      obtain ⟨f, hf⟩ := hgQ.frame (hdone rfl)
      exact ⟨R, f :: frames, feed_cons_eq_ok.2 ⟨Q, true, hQ, .inr ⟨rfl, f, frames, hf, hR, rfl⟩⟩, hgR⟩

/-- The push phase completes, whatever the transport holds (45_router R263, R265). -/
theorem Parser.Good.pushPhase {cfg : Params} {P : Parser} (hg : P.Good cfg) (k : Nat)
    (p : PushTransport) : ∃ r, pushPhase cfg k P p = .ok r ∧ r.parser.Good cfg := by
  induction k generalizing P p with
  | zero => exact ⟨_, rfl, hg⟩
  | succ k ih =>
    unfold Machine.pushPhase
    cases p.readByte with
    | hangs => exact ⟨_, rfl, hg⟩
    | empty => exact ⟨_, rfl, hg⟩
    | byte b p' =>
      obtain ⟨Q, done, hQ, hgQ, hdone⟩ := hg.processByte b
      obtain ⟨r, hr, hgr⟩ := ih hgQ p'
      cases done with
      | false =>
        refine ⟨{ r with used := r.used + 1 }, except_bind_eq_ok.2 ⟨_, hQ, ?_⟩, hgr⟩
        exact except_bind_eq_ok.2 ⟨r, hr, rfl⟩
      | true =>
        obtain ⟨f, hf⟩ := hgQ.frame (hdone rfl)
        cases hch : qualifyingChange cfg f with
        | some ch =>
          refine ⟨{ parser := Q, transport := p', used := 1, events := [.change f.id ch], found := true, stuck := none },
            except_bind_eq_ok.2 ⟨_, hQ, except_bind_eq_ok.2 ⟨f, hf, ?_⟩⟩, hgQ⟩
          rw [hch]
        | none =>
          refine ⟨{ r with used := r.used + 1, events := .dispatchPush f :: r.events },
            except_bind_eq_ok.2 ⟨_, hQ, except_bind_eq_ok.2 ⟨f, hf, ?_⟩⟩, hgr⟩
          rw [hch]
          exact except_bind_eq_ok.2 ⟨r, hr, rfl⟩

end Sys2Proof.Machine
end

section
/-! SUPPORT. The commands on good states, one equation for each thing they do: SEND_QUEUE's pushes, a scheduling pass's
drain, pops, padding and queueing, and what follows a pass (43_frame_encoder R213, R216; 44_pull_bus_scheduler R231 to
R237; 45_router R263). -/

namespace Sys2Proof.Machine

/-! ### The block's part of the invariant -/

/-- The invariant's part that a command needs: parameters, parsers, ring buffer, buffers and armed length. -/
structure State.BlockGood (s : State) : Prop where
  cfg : paramsValid s.cfg = true
  pp : s.pp.Good s.cfg
  pl : s.pl.Good s.cfg
  rb : s.rb.Good s.cfg
  tx : s.tx.within s.cfg.xferCap
  rx : s.rx.within s.cfg.xferCap
  txLen : s.tip = true → s.transferFits

theorem State.Good.blockGood {s : State} (hg : s.Good) : s.BlockGood :=
  ⟨hg.cfg, hg.pp, hg.pl, hg.rb, hg.tx, hg.rx, hg.txLen⟩

theorem State.BlockGood.setPort {s : State} (hg : s.BlockGood) (q : Port) : (s.setPort q).BlockGood :=
  ⟨hg.cfg, hg.pp, hg.pl, hg.rb, hg.tx, hg.rx, hg.txLen⟩

theorem State.BlockGood.setProgress {s : State} (hg : s.BlockGood) (g : Progress) : (s.setProgress g).BlockGood :=
  hg.setPort _

/-- The command in progress at the port in use is one that the port's context may have. -/
theorem State.Good.port_progress {s : State} (hg : s.Good) : s.port.progress.good s s.issuer := by
  unfold State.port
  cases s.issuer
  · exact hg.progressP
  · exact hg.progressC

/-- Only C fills a transmit buffer, with two contexts, before it is full (20_memory R76). -/
theorem State.Good.of_filling {s : State} (hg : s.Good) {pass : Pass} {frames : List Frame} {m : Nat}
    (h : s.port.progress = .filling pass frames m) : m < s.cfg.xferCap := by
  have hprog := hg.port_progress
  rw [h] at hprog
  cases hi : s.issuer <;> rw [hi] at hprog
  · exact hprog.elim
  · obtain ⟨-, -, hm, -⟩ := hprog
    exact hm

/-- A transfer that waits in `PullQueue` fits the buffers (44_pull_bus_scheduler R237). -/
theorem State.Good.of_queueing {s : State} (hg : s.Good) {pass : Pass} {frames : List Frame}
    (h : s.port.progress = .queueing pass frames) : s.transferFits := by
  have hprog := hg.port_progress
  rw [h] at hprog
  cases hi : s.issuer <;> rw [hi] at hprog
  · exact hprog.elim
  · exact hprog.2

/-! ### SEND_QUEUE -/

theorem pushOne_of_room {s : State} {rb : RingBuffer} {b : Byte} (h : rbPush s.cfg s.rb b = .ok (true, rb))
    (after k : Nat) : pushOne b after k s = .ok ({ s with rb := rb }, k + 1, true) :=
  pushOne_eq_ok.2 ⟨true, rb, h, .inl ⟨rfl, rfl, rfl, rfl⟩⟩

theorem pushOne_of_full_stop {s : State} (h : s.rb.count s.cfg = s.cfg.rbCap) (hq : s.cfg.queueOnFull = .stop)
    (b : Byte) (after k : Nat) : pushOne b after k s = .ok (s.countDrops (1 + after), k, false) :=
  pushOne_eq_ok.2 ⟨false, s.rb, rbPush_of_full h b, .inr (.inl ⟨rfl, hq, rfl, rfl, rfl⟩)⟩

theorem pushOne_of_full_goOn {s : State} (h : s.rb.count s.cfg = s.cfg.rbCap) (hq : s.cfg.queueOnFull = .goOn)
    (b : Byte) (after k : Nat) : pushOne b after k s = .ok (s.countDrops 1, k, true) :=
  pushOne_eq_ok.2 ⟨false, s.rb, rbPush_of_full h b, .inr (.inr ⟨rfl, hq, rfl, rfl, rfl⟩)⟩

/-- A push that leaves no byte to attempt is the end of the command. -/
theorem enqueueStep_last {s t : State} {b : Byte} {rest : List Byte} {k k' : Nat} {more : Bool}
    (h : pushOne b rest.length k s = .ok (t, k', more)) (hm : more = false ∨ rest = []) :
    enqueueStep (b :: rest) k s = .ok (t.finishSend k') := by
  refine except_bind_eq_ok.2 ⟨_, h, ?_⟩
  rcases hm with rfl | rfl <;> simp

/-- A push with bytes left to attempt leaves the command in progress. -/
theorem enqueueStep_more {s t : State} {b : Byte} {rest : List Byte} {k k' : Nat}
    (h : pushOne b rest.length k s = .ok (t, k', true)) (hr : rest ≠ []) :
    enqueueStep (b :: rest) k s = .ok (t.setProgress (.sending rest k')) := by
  refine except_bind_eq_ok.2 ⟨_, h, ?_⟩
  simp [hr]

/-- One push of SEND_QUEUE completes and leaves a good ring buffer. -/
theorem pushOne_completes {s : State} (hv : paramsValid s.cfg = true) (hg : s.rb.Good s.cfg) (b : Byte)
    (after k : Nat) :
    ∃ t k' more, pushOne b after k s = .ok (t, k', more) ∧ t.cfg = s.cfg ∧ t.rb.Good s.cfg := by
  rcases hg.count.lt_or_eq with hroom | hfull
  · obtain ⟨rb, hpush, -, hgood, -⟩ := hg.rbPush_of_room hv hroom b
    exact ⟨_, _, _, pushOne_of_room hpush after k, rfl, hgood⟩
  · cases hq : s.cfg.queueOnFull with
    | stop => exact ⟨_, _, _, pushOne_of_full_stop hfull hq b after k, rfl, hg⟩
    | goOn => exact ⟨_, _, _, pushOne_of_full_goOn hfull hq b after k, rfl, hg⟩

theorem enqueueStep_completes {s : State} (hv : paramsValid s.cfg = true) (hg : s.rb.Good s.cfg) (rest : List Byte)
    (k : Nat) : ∃ t, enqueueStep rest k s = .ok t := by
  cases rest with
  | nil => exact ⟨_, rfl⟩
  | cons b rest =>
    obtain ⟨t, k', more, h, -, -⟩ := pushOne_completes hv hg b rest.length k
    by_cases hm : more = false ∨ rest = []
    · exact ⟨_, enqueueStep_last h hm⟩
    · rw [not_or, Bool.not_eq_false] at hm
      obtain ⟨rfl, hr⟩ := hm
      exact ⟨_, enqueueStep_more h hr⟩

theorem enqueueAll_completes {s : State} (hv : paramsValid s.cfg = true) (hg : s.rb.Good s.cfg) (bytes : List Byte)
    (k : Nat) : ∃ t, enqueueAll bytes k s = .ok t := by
  induction bytes generalizing s k with
  | nil => exact ⟨_, rfl⟩
  | cons b rest ih =>
    obtain ⟨t, k', more, h, hcfg, hgood⟩ := pushOne_completes hv hg b rest.length k
    cases more with
    | false => exact ⟨_, except_bind_eq_ok.2 ⟨_, h, rfl⟩⟩
    | true =>
      obtain ⟨u, hu⟩ := ih (s := t) (hcfg ▸ hv) (hcfg ▸ hgood) k'
      exact ⟨u, except_bind_eq_ok.2 ⟨_, h, hu⟩⟩

/-! ### Pops into the transmit buffer -/

theorem Memory.writeBytes_append (m : Memory) (i : Nat) (xs ys : List Byte) :
    Memory.writeBytes m i (xs ++ ys) = Memory.writeBytes (Memory.writeBytes m i xs) (i + xs.length) ys := by
  induction xs generalizing m i with
  | nil => rfl
  | cons x xs ih =>
    rw [List.cons_append, Memory.writeBytes, ih, Memory.writeBytes, List.length_cons, Nat.add_right_comm, Nat.add_assoc]

/-- The state after a scheduling pass with `m` bytes in the transmit buffer popped `n` more into it
(44_pull_bus_scheduler R234). -/
def State.takeIn (s : State) (m n : Nat) : State :=
  { s with
    rb := s.rb.dropOldest s.cfg n
    tx := Memory.writeBytes s.tx m ((s.rb.contents s.cfg).take n) }

@[simp] theorem State.takeIn_cfg (s : State) (m n : Nat) : (s.takeIn m n).cfg = s.cfg := rfl

theorem State.takeIn_setProgress (s : State) (g : Progress) (m n : Nat) :
    (s.setProgress g).takeIn m n = (s.takeIn m n).setProgress g := rfl

theorem State.BlockGood.takeIn_zero {s : State} (hg : s.BlockGood) (m : Nat) : s.takeIn m 0 = s := by
  simp [State.takeIn, hg.rb.dropOldest_zero, Memory.writeBytes]

theorem State.BlockGood.takeIn_takeIn {s : State} (hg : s.BlockGood) {m j n : Nat} (hn : j + n ≤ s.rb.count s.cfg) :
    (s.takeIn m j).takeIn (m + j) n = s.takeIn m (j + n) := by
  have hj : ((s.rb.contents s.cfg).take j).length = j := by
    rw [List.length_take, RingBuffer.contents_length]
    omega
  unfold State.takeIn
  dsimp only
  rw [RingBuffer.dropOldest_dropOldest, hg.rb.contents_dropOldest hg.cfg (by omega), List.take_add,
    Memory.writeBytes_append, hj]

theorem State.BlockGood.takeIn {s : State} (hg : s.BlockGood) {m n : Nat} (hn : n ≤ s.rb.count s.cfg)
    (hm : m + n ≤ s.cfg.xferCap) : (s.takeIn m n).BlockGood where
  cfg := hg.cfg
  pp := hg.pp
  pl := hg.pl
  rb := hg.rb.dropOldest hn
  tx := Memory.within_writeBytes hg.tx m _ (by rw [List.length_take]; omega)
  rx := hg.rx
  txLen := hg.txLen

theorem State.BlockGood.count_takeIn {s : State} (hg : s.BlockGood) {m n : Nat} (hn : n ≤ s.rb.count s.cfg) :
    (s.takeIn m n).rb.count s.cfg = s.rb.count s.cfg - n := hg.rb.count_dropOldest hn

theorem State.BlockGood.fillOne_of_empty {s : State} (hg : s.BlockGood) (h : s.rb.count s.cfg = 0) (m : Nat) :
    fillOne m s = .ok (s, m, false) :=
  fillOne_eq_ok.2 ⟨none, s.rb, hg.rb.rbPop_of_empty h, .inl ⟨rfl, rfl, rfl, rfl⟩⟩

theorem State.BlockGood.fillOne_of_pos {s : State} (hg : s.BlockGood) (h : 0 < s.rb.count s.cfg) {m : Nat}
    (hm : m < s.cfg.xferCap) : fillOne m s = .ok (s.takeIn m 1, m + 1, decide (m + 1 < s.cfg.xferCap)) := by
  obtain ⟨b, later, hb⟩ := List.exists_cons_of_ne_nil (RingBuffer.contents_ne_nil_iff.2 h)
  refine fillOne_eq_ok.2 ⟨some b, _, hg.rb.rbPop_of_cons hg.cfg hb, .inr ⟨b, rfl, hm, ?_, rfl, rfl⟩⟩
  simp [State.takeIn, hb, Memory.writeBytes]

/-- The pops of one context (44_pull_bus_scheduler R234): as many as there are bytes and room. -/
theorem State.BlockGood.fillAll {s : State} (hg : s.BlockGood) {fuel m : Nat} (hm : m + fuel = s.cfg.xferCap) :
    fillAll fuel m s =
      .ok (s.takeIn m (min fuel (s.rb.count s.cfg)), m + min fuel (s.rb.count s.cfg)) := by
  induction fuel generalizing m s with
  | zero => rw [Nat.zero_min, hg.takeIn_zero]; rfl
  | succ fuel ih =>
    rcases Nat.eq_zero_or_pos (s.rb.count s.cfg) with h | h
    · rw [h, Nat.min_zero, hg.takeIn_zero]
      exact except_bind_eq_ok.2 ⟨_, hg.fillOne_of_empty h m, rfl⟩
    · refine except_bind_eq_ok.2 ⟨_, hg.fillOne_of_pos h (by omega), ?_⟩
      have hrest := ih (hg.takeIn (m := m) (n := 1) h (by omega)) (m := m + 1) (by rw [State.takeIn_cfg]; omega)
      rw [State.takeIn_cfg, hg.count_takeIn h, hg.takeIn_takeIn (by omega), show m + 1 + min fuel (s.rb.count s.cfg - 1)
        = m + min (fuel + 1) (s.rb.count s.cfg) by omega, show 1 + min fuel (s.rb.count s.cfg - 1)
        = min (fuel + 1) (s.rb.count s.cfg) by omega] at hrest
      by_cases hlast : m + 1 < s.cfg.xferCap
      · simpa [hlast] using hrest
      · obtain rfl : fuel = 0 := by omega
        have h1 : min (0 + 1) (s.rb.count s.cfg) = 1 := by omega
        simp [hlast, h1]

/-! ### Padding and queueing -/

/-- The length of a transfer: a positive multiple of ALIGN that holds the bytes and fits the buffer
(44_pull_bus_scheduler R235). -/
theorem transferLength_fits {cfg : Params} (hv : paramsValid cfg = true) {m : Nat} (hm : m ≤ cfg.xferCap) :
    transferLength cfg m % cfg.align = 0 ∧ 0 < transferLength cfg m ∧ m ≤ transferLength cfg m ∧
      transferLength cfg m ≤ cfg.xferCap := by
  obtain ⟨-, -, -, halign, hcap, hmul, -⟩ := paramsValid_iff.1 hv
  unfold transferLength
  split_ifs with h
  · exact ⟨Nat.mod_self _, halign, by omega, Nat.le_of_dvd hcap (Nat.dvd_of_mod_eq_zero hmul)⟩
  · have hle := le_roundup m halign
    exact ⟨roundup_mod _ _, by omega, hle, roundup_le_of_dvd halign hm hmul⟩

/-- The state after the padding of `m` bytes and `tx_len <- L` (44_pull_bus_scheduler R236, R237). -/
def State.padded (s : State) (m : Nat) : State :=
  { s with
    tx := Memory.writeBytes s.tx m (List.replicate (transferLength s.cfg m - m) filler)
    txLen := BitVec.ofNat 16 (transferLength s.cfg m) }

@[simp] theorem State.padded_cfg (s : State) (m : Nat) : (s.padded m).cfg = s.cfg := rfl

theorem State.padded_setProgress (s : State) (g : Progress) (m : Nat) :
    (s.setProgress g).padded m = (s.padded m).setProgress g := rfl

theorem State.padded_txLen {s : State} (hv : paramsValid s.cfg = true) {m : Nat} (hm : m ≤ s.cfg.xferCap) :
    (s.padded m).txLen.toNat = transferLength s.cfg m := by
  obtain ⟨-, -, -, hle⟩ := transferLength_fits hv hm
  obtain ⟨-, -, -, -, -, -, hcap⟩ := paramsValid_iff.1 hv
  exact Nat.mod_eq_of_lt (by omega)

theorem pad_of_le {s : State} (hv : paramsValid s.cfg = true) {m : Nat} (hm : m ≤ s.cfg.xferCap) :
    pad m s = .ok (s.padded m) := by
  obtain ⟨-, -, hle, hcap⟩ := transferLength_fits hv hm
  exact pad_eq_ok.2 ⟨by omega, rfl⟩

theorem arm_of_le {pass : Pass} {finish : AfterPass} {frames : List Frame} {s : State} (hv : paramsValid s.cfg = true)
    {m : Nat} (hm : m ≤ s.cfg.xferCap) :
    arm pass finish frames m s = queueTransfer pass finish frames (s.padded m) := by
  unfold arm
  rw [pad_of_le hv hm]
  rfl

theorem queueTransfer_of_returns {pass : Pass} {finish : AfterPass} {frames : List Frame} {s : State}
    (h : s.pull.queueReturns = true) (hl : s.txLen.toNat ≤ s.cfg.xferCap) :
    queueTransfer pass finish frames s = finish frames true s.queuedTransfer := by
  unfold queueTransfer
  rw [if_pos h, memReadPrefix_ok hl]
  rfl

theorem queueTransfer_of_held {pass : Pass} {finish : AfterPass} {frames : List Frame} {s : State}
    (h : s.pull.queueReturns = false) :
    queueTransfer pass finish frames s = .ok (s.setProgress (.queueing pass frames)) :=
  queueTransfer_eq_ok.2 (.inr ⟨h, rfl⟩)

/-! ### After a scheduling pass -/

/-- The push phase and the response after it complete, as 45_router R263 and R267 say. -/
theorem readPush_answers {s : State} (hg : s.pp.Good s.cfg) (k used : Nat) (armed : Bool)
    (events : List RouterEvent) :
    ∃ t, readPush k used armed events s = .ok t ∧ PushPhaseAnswers k used armed events s t := by
  obtain ⟨r, hr, -⟩ := hg.pushPhase k s.push
  cases hs : r.stuck with
  | some left =>
    refine ⟨_, readPush_eq_ok.2 ⟨r, hr, .inl ⟨left, hs, rfl⟩⟩, r, hr, by simp [hs], fun l hl => ?_⟩
    rw [hs, Option.some.injEq] at hl
    rw [hl]
  | none =>
    refine ⟨_, readPush_eq_ok.2 ⟨r, hr, .inr ⟨hs, rfl⟩⟩, r, hr, fun _ => ?_, by simp [hs]⟩
    cases r.found <;> rfl

/-- What follows a scheduling pass completes, as 44_pull_bus_scheduler R239 and 45_router R263 to R267 say. -/
theorem afterPass_answers {s : State} (hg : s.pp.Good s.cfg) (pass : Pass) (frames : List Frame) (armed : Bool) :
    ∃ t, afterPass pass frames armed s = .ok t ∧ PassAnswers pass frames armed s t := by
  cases pass with
  | poll => exact ⟨_, rfl, rfl⟩
  | router =>
    cases hf : (pullPhase s.cfg frames).2 with
    | true => exact ⟨_, finishRouter_eq_ok.2 (.inl ⟨hf, rfl⟩), fun _ => rfl, by simp [hf], by simp [hf]⟩
    | false =>
      cases ha : s.push.availableReturns with
      | false =>
        exact ⟨_, finishRouter_eq_ok.2 (.inr ⟨hf, countPush_eq_ok.2 (.inr ⟨ha, rfl⟩)⟩), by simp [hf], fun _ _ => rfl,
          by simp [ha]⟩
      | true =>
        obtain ⟨t, ht, hans⟩ := readPush_answers hg s.push.available 0 armed (pullPhase s.cfg frames).1
        exact ⟨t, finishRouter_eq_ok.2 (.inr ⟨hf, countPush_eq_ok.2 (.inl ⟨ha, ht⟩)⟩), by simp [hf], by simp [ha],
          fun _ _ => hans⟩

/-- The push phase does not depend on what stood in progress: it ends the command, or puts its own there. -/
theorem readPush_setProgress (k used : Nat) (armed : Bool) (events : List RouterEvent) (s : State) (g : Progress) :
    readPush k used armed events (s.setProgress g) = readPush k used armed events s := by
  unfold readPush
  refine congrArg _ (funext fun r => ?_)
  cases h : r.stuck with
  | some left =>
    exact congrArg Except.ok (State.setProgress_setProgress { s with pp := r.parser, push := r.transport } g _)
  | none =>
    exact congrArg Except.ok (State.setProgress_respond { s with pp := r.parser, push := r.transport } g _ _ _ _)

/-- What follows a pass does not depend on what stood in progress. -/
theorem afterPass_setProgress (pass : Pass) (frames : List Frame) (armed : Bool) (s : State) (g : Progress) :
    afterPass pass frames armed (s.setProgress g) = afterPass pass frames armed s := by
  cases pass with
  | poll => simp [afterPass, finishPoll]
  | router => simp [afterPass, finishRouter, countPush, readPush_setProgress]

/-- The queueing does not depend on what stood in progress. -/
theorem queueTransfer_setProgress (pass : Pass) (frames : List Frame) (s : State) (g : Progress) :
    queueTransfer pass (afterPass pass) frames (s.setProgress g) = queueTransfer pass (afterPass pass) frames s := by
  unfold queueTransfer
  rw [State.setProgress_pull, State.setProgress_setProgress]
  split_ifs with h
  · refine congrArg _ (funext fun bytes => ?_)
    exact afterPass_setProgress pass frames true { s with pull := s.pull.queue bytes, tip := true } g
  · rfl

/-- A transfer that fits the buffer is queued, and the command goes on (44_pull_bus_scheduler R237). -/
theorem queueTransfer_answers {s : State} (hp : s.pp.Good s.cfg) (hl : s.txLen.toNat ≤ s.cfg.xferCap)
    (h : s.pull.queueReturns = true) (pass : Pass) (frames : List Frame) :
    ∃ t, queueTransfer pass (afterPass pass) frames s = .ok t ∧ PassAnswers pass frames true s.queuedTransfer t := by
  rw [queueTransfer_of_returns h hl]
  exact afterPass_answers (s := s.queuedTransfer) hp pass frames true

theorem queueTransfer_completes {s : State} (hp : s.pp.Good s.cfg) (hl : s.txLen.toNat ≤ s.cfg.xferCap) (pass : Pass)
    (frames : List Frame) : ∃ t, queueTransfer pass (afterPass pass) frames s = .ok t := by
  cases h : s.pull.queueReturns with
  | false => exact ⟨_, queueTransfer_of_held h⟩
  | true =>
    obtain ⟨t, ht, -⟩ := queueTransfer_answers hp hl h pass frames
    exact ⟨t, ht⟩

/-! ### One step of filling, and the arming part -/

/-- A pop with more bytes and more room after it (20_memory R76). -/
theorem State.BlockGood.fillStep_more {s : State} (hg : s.BlockGood) {m : Nat} (h : 0 < s.rb.count s.cfg)
    (hm : m + 1 < s.cfg.xferCap) (pass : Pass) (finish : AfterPass) (frames : List Frame) :
    fillStep pass finish frames m s = .ok ((s.takeIn m 1).setProgress (.filling pass frames (m + 1))) :=
  fillStep_eq_ok.2 ⟨_, _, true, by rw [hg.fillOne_of_pos h (by omega), decide_eq_true hm], .inl ⟨rfl, rfl⟩⟩

/-- The last pop of a pass, and the arming (20_memory R76). -/
theorem State.BlockGood.fillStep_last {s : State} (hg : s.BlockGood) {m : Nat} (hm : m < s.cfg.xferCap)
    (h : s.rb.count s.cfg = 0 ∨ m + 1 = s.cfg.xferCap) (pass : Pass) (finish : AfterPass) (frames : List Frame) :
    fillStep pass finish frames m s = queueTransfer pass finish frames
      ((s.takeIn m (min 1 (s.rb.count s.cfg))).padded (m + min 1 (s.rb.count s.cfg))) := by
  unfold fillStep
  rcases Nat.eq_zero_or_pos (s.rb.count s.cfg) with h0 | hpos
  · rw [hg.fillOne_of_empty h0, h0, Nat.min_zero, hg.takeIn_zero]
    exact arm_of_le hg.cfg hm.le
  · rw [hg.fillOne_of_pos hpos hm, Nat.min_eq_left hpos, decide_eq_false (by omega)]
    exact arm_of_le (s := s.takeIn m 1) hg.cfg hm

/-- The pops take no more than the buffer holds, so the padded length fits it. -/
theorem State.padded_txLen_le {s : State} (hv : paramsValid s.cfg = true) {m : Nat} (hm : m ≤ s.cfg.xferCap) :
    (s.padded m).txLen.toNat ≤ s.cfg.xferCap :=
  State.padded_txLen hv hm ▸ (transferLength_fits hv hm).2.2.2

theorem State.BlockGood.fillStep_completes {s : State} (hg : s.BlockGood) {m : Nat} (hm : m < s.cfg.xferCap)
    (pass : Pass) (frames : List Frame) : ∃ t, fillStep pass (afterPass pass) frames m s = .ok t := by
  by_cases h : 0 < s.rb.count s.cfg ∧ m + 1 < s.cfg.xferCap
  · exact ⟨_, hg.fillStep_more h.1 h.2 _ _ _⟩
  · rw [hg.fillStep_last hm (by omega)]
    exact queueTransfer_completes (s := (s.takeIn m _).padded _) hg.pp
      (State.padded_txLen_le (s := s.takeIn m _) hg.cfg (by rw [State.takeIn_cfg]; omega)) pass frames

/-- The arming part of one context: all its pops, the padding, and the queueing (44_pull_bus_scheduler R233 to
R237). -/
theorem State.BlockGood.fillAndArm_of_one {s : State} (hg : s.BlockGood) (h1 : s.twoContexts = false) (pass : Pass)
    (finish : AfterPass) (frames : List Frame) :
    fillAndArm pass finish frames s = queueTransfer pass finish frames
      ((s.takeIn 0 (min s.cfg.xferCap (s.rb.count s.cfg))).padded (min s.cfg.xferCap (s.rb.count s.cfg))) := by
  unfold fillAndArm
  rw [if_neg (by simp [h1]), hg.fillAll (Nat.zero_add _), Nat.zero_add]
  exact arm_of_le (s := s.takeIn 0 _) hg.cfg (Nat.min_le_left _ _)

theorem State.BlockGood.fillAndArm_completes {s : State} (hg : s.BlockGood) (pass : Pass) (frames : List Frame) :
    ∃ t, fillAndArm pass (afterPass pass) frames s = .ok t := by
  obtain ⟨-, -, -, -, hcap, -⟩ := paramsValid_iff.1 hg.cfg
  cases h : s.twoContexts with
  | false =>
    rw [hg.fillAndArm_of_one h]
    exact queueTransfer_completes (s := (s.takeIn 0 _).padded _) hg.pp
      (State.padded_txLen_le (s := s.takeIn 0 _) hg.cfg (Nat.min_le_left _ _)) pass frames
  | true =>
    unfold fillAndArm
    rw [if_pos h]
    exact hg.fillStep_completes hcap pass frames

/-! ### A scheduling pass -/

/-- A report that no check rejects has a completion of the armed transaction only, inside its length
(44_pull_bus_scheduler R231). -/
theorem completion_of_reportFault_none {tip : Bool} {txLen c r f : Nat} (h : reportFault tip txLen c r f = none) :
    c = 0 ∨ c = 1 ∧ tip = true ∧ r ≤ txLen := by
  unfold reportFault at h
  dsimp only at h
  split_ifs at h with h1 h2 h3
  by_cases hc : c = 1
  · refine .inr ⟨hc, by simpa [hc] using h2, ?_⟩
    by_contra hr
    exact h3 ⟨hc, by omega⟩
  · exact .inl (by omega)

/-- The state after the report was taken and a completed transaction drained, `P` being the parser `PL` then
(44_pull_bus_scheduler R232). -/
def State.drained (s : State) (P : Parser) : State :=
  { s with pull := s.pull.polled, pl := P, tip := s.tip && s.pull.completed == 0 }

/-- The drain of a completion inside the armed length completes; with none there is nothing to drain
(44_pull_bus_scheduler R232). -/
theorem State.BlockGood.drain {s : State} (hg : s.BlockGood) (hs : s.completionSound) :
    ∃ P frames, s.pl.feed s.cfg s.received = .ok (P, frames) ∧ (s.drained P).BlockGood ∧
      drain s.pull.completed s.pull.rxCount { s with pull := s.pull.polled } = .ok (s.drained P, frames) := by
  obtain ⟨P, frames, hfeed, hP⟩ := hg.pl.feed s.received
  refine ⟨P, frames, hfeed, ⟨hg.cfg, hg.pp, hP, hg.rb, hg.tx, hg.rx, fun h => hg.txLen (Bool.and_elim_left h)⟩,
    drain_eq_ok.2 ?_⟩
  unfold State.received at hfeed
  unfold State.drained
  rcases hs with hc | ⟨hc, htip, hr⟩
  · rw [if_neg (by omega), Parser.feed, Except.ok.injEq, Prod.mk.injEq] at hfeed
    obtain ⟨rfl, rfl⟩ := hfeed
    exact .inl ⟨by omega, by simp [hc], rfl⟩
  · rw [if_pos hc] at hfeed
    exact .inr ⟨hc, hr.trans (hg.txLen htip).2.2, P, hfeed, by simp [hc]⟩

theorem State.BlockGood.schedPass_completes {s : State} (hg : s.BlockGood) (pass : Pass) :
    ∃ t, schedPass pass (afterPass pass) s = .ok t := by
  cases hp : s.pull.pollReturns with
  | false => exact ⟨_, schedPass_eq_ok.2 (.inr ⟨hp, rfl⟩)⟩
  | true =>
    suffices ∃ t, passAfterPoll pass (afterPass pass) s = .ok t by
      obtain ⟨t, ht⟩ := this
      exact ⟨t, schedPass_eq_ok.2 (.inl ⟨hp, ht⟩)⟩
    cases hf : reportFault s.tip s.txLen.toNat s.pull.completed s.pull.rxCount s.pull.inFlight with
    | some reason => exact ⟨_, passAfterPoll_eq_ok.2 (.inl ⟨reason, hf, rfl⟩)⟩
    | none =>
      obtain ⟨P, frames, -, hu, hdrain⟩ := hg.drain (completion_of_reportFault_none hf)
      by_cases h0 : s.pull.inFlight = 0
      · obtain ⟨t, ht⟩ := hu.fillAndArm_completes pass frames
        exact ⟨t, passAfterPoll_eq_ok.2 (.inr ⟨hf, _, frames, hdrain, .inl ⟨h0, ht⟩⟩)⟩
      · obtain ⟨t, ht, -⟩ := afterPass_answers hu.pp pass frames false
        exact ⟨t, passAfterPoll_eq_ok.2 (.inr ⟨hf, _, frames, hdrain, .inr ⟨h0, ht⟩⟩)⟩

end Sys2Proof.Machine
end

section
/-! PROOF. From every state with the invariant a step gives a next state: no rule computes an index outside its array
(20_memory R71, 60_exceptions R305). -/

namespace Sys2Proof.Machine

/-- A command whose own rule completes gives a next state, whoever issues it (60_exceptions R308). -/
theorem guarded_completes {i : Instr} {s : State} {body : Except Fault State} (hv : paramsValid s.cfg = true)
    (h : ∃ t, body = .ok t) : ∃ t, guarded i s body = .next t := by
  obtain ⟨t, rfl⟩ := h
  cases ha : s.admits i with
  | false => exact ⟨s.raise .contextConflict, by simp [guarded, hv, ha]⟩
  | true => exact ⟨t, by simp [guarded_of_accepted hv ha]⟩

/-- Either parser meets the parser's invariant. -/
theorem State.BlockGood.parser {s : State} (hg : s.BlockGood) (sel : ParserSel) : (s.parser sel).Good s.cfg := by
  cases sel
  · exact hg.pp
  · exact hg.pl

/-- `rbPush` completes: `head mod RB_CAP` is inside the array (41_ring_buffer R162). -/
theorem rbPush_completes {cfg : Params} {rb : RingBuffer} (hv : paramsValid cfg = true) (hg : rb.Good cfg) (b : Byte) :
    ∃ r, rbPush cfg rb b = .ok r := by
  rcases hg.count.lt_or_eq with hroom | hfull
  · obtain ⟨rb', h, -⟩ := hg.rbPush_of_room hv hroom b
    exact ⟨_, h⟩
  · exact ⟨_, rbPush_of_full hfull b⟩

/-- `rbPop` completes: `tail mod RB_CAP` is inside the array (41_ring_buffer R163). -/
theorem rbPop_completes {cfg : Params} {rb : RingBuffer} (hv : paramsValid cfg = true) (hg : rb.Good cfg) :
    ∃ r, rbPop cfg rb = .ok r := by
  cases h : rb.contents cfg with
  | nil => exact ⟨_, hg.rbPop_of_empty (RingBuffer.contents_eq_nil_iff.1 h)⟩
  | cons b later => exact ⟨_, hg.rbPop_of_cons hv h⟩

/-- Every command gives a next state. -/
theorem State.BlockGood.exec_completes {s : State} (hg : s.BlockGood) (i : Instr) : ∃ t, exec i s = .next t := by
  cases i with
  | crcUpdate crc b => exact guarded_completes hg.cfg ⟨_, rfl⟩
  | crc16 id data => exact guarded_completes hg.cfg ⟨_, rfl⟩
  | rbPush b =>
    obtain ⟨⟨pushed, rb⟩, h⟩ := rbPush_completes hg.cfg hg.rb b
    exact guarded_completes hg.cfg ⟨_, except_bind_eq_ok.2 ⟨_, h, rfl⟩⟩
  | rbPop =>
    obtain ⟨⟨popped, rb⟩, h⟩ := rbPop_completes hg.cfg hg.rb
    refine guarded_completes hg.cfg ?_
    cases popped <;> exact ⟨_, except_bind_eq_ok.2 ⟨_, h, rfl⟩⟩
  | rbIsEmpty => exact guarded_completes hg.cfg ⟨_, rfl⟩
  | parseByte sel b =>
    obtain ⟨P, done, h, -⟩ := (hg.parser sel).processByte b
    exact guarded_completes hg.cfg ⟨_, except_bind_eq_ok.2 ⟨_, h, rfl⟩⟩
  | getFrame sel =>
    refine guarded_completes hg.cfg ?_
    split_ifs with hvalid
    · obtain ⟨f, hf⟩ := (hg.parser sel).frame hvalid
      exact ⟨_, except_bind_eq_ok.2 ⟨f, hf, rfl⟩⟩
    · exact ⟨_, rfl⟩
  | sendPush id payload =>
    refine guarded_completes hg.cfg ?_
    split_ifs <;> exact ⟨_, rfl⟩
  | sendQueue id payload =>
    refine guarded_completes hg.cfg ?_
    split_ifs
    · exact enqueueStep_completes hg.cfg hg.rb _ 0
    · exact enqueueAll_completes hg.cfg hg.rb _ 0
    · exact ⟨_, rfl⟩
  | pullPoll => exact guarded_completes hg.cfg (hg.schedPass_completes .poll)
  | routerPass => exact guarded_completes hg.cfg (hg.schedPass_completes .router)
  | rdReg reg => exact guarded_completes hg.cfg ⟨_, rfl⟩

/-- A command in progress goes on: what the invariant says of it bounds the indexes of its next step. -/
theorem State.Good.resume_completes {s : State} (hg : s.Good) : ∃ t, resume s = .ok t := by
  have hb : s.BlockGood := hg.blockGood
  unfold resume
  cases hp : s.port.progress with
  | idle => exact ⟨_, rfl⟩
  | sending rest k => exact enqueueStep_completes hg.cfg hg.rb rest k
  | filling pass frames m => exact hb.fillStep_completes (hg.of_filling hp) pass frames
  | writing frame => exact ⟨_, rfl⟩
  | flushing => exact ⟨_, rfl⟩
  | polling pass => exact hb.schedPass_completes pass
  | queueing pass frames => exact queueTransfer_completes hg.pp (hg.of_queueing hp).2.2 pass frames
  | counting armed events =>
    cases ha : s.push.availableReturns with
    | false => exact ⟨_, countPush_eq_ok.2 (.inr ⟨ha, rfl⟩)⟩
    | true =>
      obtain ⟨t, ht, -⟩ := readPush_answers hg.pp s.push.available 0 armed events
      exact ⟨t, countPush_eq_ok.2 (.inl ⟨ha, ht⟩)⟩
  | reading k used armed events =>
    obtain ⟨t, ht, -⟩ := readPush_answers hg.pp k used armed events
    exact ⟨t, ht⟩

/-- A context's turn gives a next state. -/
theorem State.Good.takeTurn_completes {s : State} (hg : s.Good) : ∃ t, takeTurn s = .next t := by
  rcases takeTurn_cases s with ⟨-, h⟩ | ⟨-, -, h | h⟩ | ⟨-, -, ⟨-, h⟩ | ⟨why, -, h⟩ | ⟨i, rest, -, h⟩⟩
  · obtain ⟨t, ht⟩ := hg.resume_completes
    exact ⟨t, by rw [h, ht]; rfl⟩
  · exact ⟨_, h⟩
  · exact ⟨_, h⟩
  · exact ⟨_, h⟩
  · exact ⟨_, h⟩
  · rw [h]
    exact (hg.blockGood.setPort _).exec_completes i

/-- Settles O12: a step is an act of the outside, which always completes, or a turn; a turn goes on with a command or
starts one, and on a good state each does so inside its arrays. -/
theorem goodStateAlwaysSteps : Obligations.GoodStateAlwaysSteps := by
  intro s hg
  rcases step_cases hg.cfg with ⟨hi, h⟩ | ⟨x, rest, hi, h⟩ | ⟨i, rest, -, -, h⟩
  · rw [h]
    exact hg.takeTurn_completes
  · rw [h]
    exact (hg.of_turnedTo (.inr ⟨x, rest, hi, rfl⟩)).takeTurn_completes
  · exact ⟨_, h⟩

end Sys2Proof.Machine
end

section
/-! PROOF. What the outside does between two atomic steps changes no element of the block but `rx`, and `rx` only where
the pull transport receives (20_memory R86, 10_state R30). -/

namespace Sys2Proof.Machine

/-- A step with an act of the outside next is that act. -/
theorem step_of_act {s t : State} {i : Input} {later : List Input} (hi : s.inputs = i :: later)
    (hne : ∀ x, i ≠ .turn x) (h : step s = .next t) : t = { s with inputs := later }.applyInput i := by
  unfold step at h
  split_ifs at h
  rw [hi] at h
  cases i with
  | turn x => exact absurd rfl (hne x)
  | _ => exact (Host.Outcome.next.inj h).symm

/-- `t` has the elements of the block that `s` has, `rx` left aside (10_state R33 to R52). -/
def SameBlock (s t : State) : Prop :=
  t.pp = s.pp ∧ t.pl = s.pl ∧ t.rb = s.rb ∧ t.tip = s.tip ∧ t.tx = s.tx ∧ t.txLen = s.txLen ∧
    t.cntSendReject = s.cntSendReject ∧ t.cntQueueDrop = s.cntQueueDrop ∧ t.fault = s.fault ∧
    t.faultReason = s.faultReason ∧ t.inputs = s.inputs

theorem SameBlock.refl (s : State) : SameBlock s s := ⟨rfl, rfl, rfl, rfl, rfl, rfl, rfl, rfl, rfl, rfl, rfl⟩

/-- A transfer with nothing in flight involves nothing of the block (60_exceptions R319). -/
theorem State.masterClock_of_none {s : State} (h : s.pull.inFlight = 0) (bytes : List Byte) :
    s.masterClock bytes = s := if_pos h

/-- The end of the transfer in flight: the transport's report, and `rx` (60_exceptions R314). -/
theorem State.masterClock_of_inFlight {s : State} (h : s.pull.inFlight ≠ 0) (bytes : List Byte) {out : List Byte}
    (ho : out = s.pull.queued.getLast?.getD []) {n : Nat} (hn : n = min bytes.length out.length) :
    s.masterClock bytes = { s.receive (bytes.take n) with pull :=
      { s.pull with
        completed := s.pull.completed + 1
        rxCount := n
        inFlight := s.pull.inFlight - 1
        sent := s.pull.sent ++ out.take n } } := by
  subst ho hn
  exact if_neg h

/-- Every act of the outside leaves the elements of the block but `rx`. -/
theorem applyInput_sameBlock (s : State) (i : Input) : SameBlock s (s.applyInput i) := by
  cases i with
  | callReturns call returns =>
    show SameBlock s (s.setCall call returns)
    simp [SameBlock]
  | masterClock bytes =>
    show SameBlock s (s.masterClock bytes)
    by_cases h : s.pull.inFlight = 0
    · rw [State.masterClock_of_none h]
      exact SameBlock.refl s
    · rw [State.masterClock_of_inFlight h bytes rfl rfl]
      exact SameBlock.refl s
  | _ => exact SameBlock.refl s

/-- Only the master's clocking and a report of the pull transport write `rx` (20_memory R86). -/
theorem applyInput_rx (s : State) {i : Input} (hclock : ∀ bytes, i ≠ .masterClock bytes)
    (hreport : ∀ c r f bytes, i ≠ .pullReport c r f bytes) : (s.applyInput i).rx = s.rx := by
  cases i with
  | callReturns call returns => exact s.setCall_rx call returns
  | masterClock bytes => exact absurd rfl (hclock bytes)
  | pullReport c r f bytes => exact absurd rfl (hreport c r f bytes)
  | _ => rfl

/-- Bytes received stand at the start of `rx`, and `rx` is as before from there on (20_memory R86). -/
theorem receive_reads {s : State} (hwf : s.rx.wf) {bytes : List Byte} (hl : bytes.length ≤ s.cfg.xferCap) :
    Memory.readPrefix (s.receive bytes).rx bytes.length = bytes ∧
      ∀ k, bytes.length ≤ k → Memory.read (s.receive bytes).rx k = Memory.read s.rx k := by
  rw [State.receive_rx, List.take_of_length_le hl]
  refine ⟨Memory.readPrefix_writeBytes hwf bytes, fun k hk => ?_⟩
  rw [Memory.read_writeBytes hwf, if_neg (by omega)]

/-- Settles O8: the step is the act itself, and each act is looked at on its own. -/
theorem outsideActsLeaveTheBlock : Obligations.OutsideActsLeaveTheBlock := by
  intro s t i later hi hne h
  obtain rfl := step_of_act hi hne h
  refine ⟨applyInput_sameBlock { s with inputs := later } i, applyInput_rx { s with inputs := later }, ?_, ?_, ?_⟩
  · rintro bytes rfl h0
    exact State.masterClock_of_none (s := { s with inputs := later }) h0 bytes
  · rintro bytes out n rfl h0 hwf ho hcap hn
    have hclock := State.masterClock_of_inFlight (s := { s with inputs := later }) h0 bytes ho hn
    have hlen : (bytes.take n).length = n := by
      rw [List.length_take]
      omega
    obtain ⟨hread, hbeyond⟩ := receive_reads (s := { s with inputs := later }) hwf (bytes := bytes.take n)
      (by rw [hlen]; exact (hn ▸ Nat.min_le_right _ _ : n ≤ out.length).trans hcap)
    rw [hlen] at hread hbeyond
    simp only [State.applyInput]
    rw [hclock]
    exact ⟨rfl, hread, hbeyond⟩
  · rintro c r f bytes rfl hwf hcap
    exact ⟨rfl, receive_reads (s := { s with inputs := later }) hwf hcap⟩

end Sys2Proof.Machine
end

section
/-! PROOF. Which context may issue which command (20_memory R77, 60_exceptions R308). -/

namespace Sys2Proof.Machine

/-- The check of the issuing context, with two contexts (20_memory R77). -/
theorem admits_of_two {s : State} (h2 : s.twoContexts = true) (i : Instr) : s.admits i = s.turn.mayIssue i := by
  simp [State.admits, h2]

/-- A context's list holds with one context and with two (20_memory R77). -/
theorem admits_of_mayIssue {s : State} {i : Instr} (h : s.turn.mayIssue i = true) : s.admits i = true := by
  simp [State.admits, h]

/-- A command the context may not issue raises CONTEXT_CONFLICT and does nothing else (60_exceptions R308). -/
theorem exec_of_not_admitted {s : State} {i : Instr} (hv : paramsValid s.cfg = true) (ha : s.admits i = false) :
    exec i s = .next (s.raise .contextConflict) := by
  have hguard (body : Except Fault State) : guarded i s body = .next (s.raise .contextConflict) := by
    simp [guarded, hv, ha]
  cases i <;> exact hguard _

/-- Settles O59: each command is looked up in the issuing context's list. -/
theorem foreignCommandConflicts : Obligations.ForeignCommandConflicts := by
  intro s i hv
  refine ⟨fun h2 hforeign => exec_of_not_admitted hv ?_, fun h1 => ⟨hv, admits_of_one h1 i⟩,
    fun hp hlist => ⟨hv, admits_of_mayIssue ?_⟩, fun hc hpush hqueue => ⟨hv, admits_of_mayIssue ?_⟩⟩
  · rw [admits_of_two h2]
    rcases hforeign with ⟨hp, hi⟩ | ⟨hc, hi⟩
    · rw [hp]
      rcases hi with rfl | rfl | ⟨sel, b, rfl⟩ | ⟨sel, rfl⟩ | ⟨id, payload, rfl⟩ | rfl | rfl <;> rfl
    · rw [hc]
      rcases hi with ⟨b, rfl⟩ | ⟨id, payload, rfl⟩ <;> rfl
  · rw [hp]
    rcases hlist with ⟨b, rfl⟩ | ⟨id, payload, rfl⟩ | ⟨crc, b, rfl⟩ | ⟨id, data, rfl⟩ | ⟨reg, rfl⟩ <;> rfl
  · rw [hc]
    cases i with
    | rbPush b => exact absurd rfl (hpush b)
    | sendQueue id payload => exact absurd rfl (hqueue id payload)
    | _ => rfl

end Sys2Proof.Machine
end

section
/-! SUPPORT. Steps of a command in progress, and runs of them with no act of the outside left (20_memory R76). -/

namespace Sys2Proof.Machine

/-- A turn of a context with a command in progress is that command's next step. -/
theorem step_of_progress {s u : State} (hv : paramsValid s.cfg = true) (hu : s.turnedTo u)
    (hp : u.port.progress ≠ .idle) : step s = outcome (resume u) := by
  rw [step_of_turnedTo hv hu, takeTurn_of_progress hp]

theorem run_zero (s : State) : Sys2Proof.core.run 0 s = .next s := rfl

/-- A run whose first step goes on with the command in progress. -/
theorem run_succ_of_resume {s u t : State} {n : Nat} (hv : paramsValid s.cfg = true) (hi : s.inputs = [])
    (hp : s.port.progress ≠ .idle) (hu : resume s = .ok u) (ht : Sys2Proof.core.run n u = .next t) :
    Sys2Proof.core.run (n + 1) s = .next t := by
  have hstep : Sys2Proof.core.step s = .next u := by
    show step s = .next u
    rw [step_of_progress hv (.inl ⟨hi, rfl⟩) hp, hu]
    rfl
  simpa only [Host.Core.run, hstep] using ht

/-- With two contexts and P's turn the port in use is P's (notes/assumptions/10). -/
theorem setProgress_of_p {s : State} (h2 : s.twoContexts = true) (ht : s.turn = .p) (g : Progress) :
    s.setProgress g = { s with portP := { s.portP with progress := g } } := by
  simp [State.setProgress, State.setPort, State.withPort, State.port, State.portOf, State.issuer, h2, ht]

/-- With two contexts and C's turn the port in use is C's. -/
theorem setProgress_of_c {s : State} (h2 : s.twoContexts = true) (ht : s.turn = .c) (g : Progress) :
    s.setProgress g = { s with portC := { s.portC with progress := g } } := by
  simp [State.setProgress, State.setPort, State.withPort, State.port, State.portOf, State.issuer, h2, ht]

end Sys2Proof.Machine
end

section
/-! PROOF. With two contexts SEND_QUEUE makes one push a step, and without interruption it ends as with one context
(20_memory R76, 43_frame_encoder R213, R216). -/

namespace Sys2Proof.Machine

/-! ### One step -/

/-- A step with room pushes the next byte (43_frame_encoder R213). -/
theorem enqueueStep_of_room {s : State} (hv : paramsValid s.cfg = true) (hg : s.rb.Good s.cfg)
    (h : s.rb.count s.cfg < s.cfg.rbCap) (b : Byte) (rest : List Byte) (k : Nat) :
    ∃ rb, RingBuffer.Pushed s.cfg s.rb rb [b] ∧ rb.Good s.cfg ∧ rb.count s.cfg = s.rb.count s.cfg + 1 ∧
      (rest ≠ [] → enqueueStep (b :: rest) k s = .ok ({ s with rb := rb }.setProgress (.sending rest (k + 1)))) ∧
      (rest = [] → enqueueStep (b :: rest) k s = .ok ({ s with rb := rb }.finishSend (k + 1))) := by
  obtain ⟨rb, hpush, hpushed, hgood, hcount⟩ := hg.rbPush_of_room hv h b
  have hone := pushOne_of_room hpush rest.length k
  exact ⟨rb, hpushed, hgood, hcount, enqueueStep_more hone, fun hr => enqueueStep_last hone (.inr hr)⟩

/-- A step without room that ends the attempts counts every byte left (43_frame_encoder R216). -/
theorem enqueueStep_of_full_last {s : State} (h : s.rb.count s.cfg = s.cfg.rbCap) (b : Byte) {rest : List Byte}
    (hq : s.cfg.queueOnFull = .stop ∨ rest = []) (k : Nat) :
    enqueueStep (b :: rest) k s = .ok ((s.countDrops (rest.length + 1)).finishSend k) := by
  cases hmode : s.cfg.queueOnFull with
  | stop =>
    rw [Nat.add_comm]
    exact enqueueStep_last (pushOne_of_full_stop h hmode b rest.length k) (.inl rfl)
  | goOn =>
    obtain rfl : rest = [] := hq.resolve_left (by simp [hmode])
    exact enqueueStep_last (pushOne_of_full_goOn h hmode b 0 k) (.inr rfl)

/-- A step without room that goes on counts its own byte (43_frame_encoder R216). -/
theorem enqueueStep_of_full_more {s : State} (h : s.rb.count s.cfg = s.cfg.rbCap) (b : Byte) {rest : List Byte}
    (hq : s.cfg.queueOnFull = .goOn) (hr : rest ≠ []) (k : Nat) :
    enqueueStep (b :: rest) k s = .ok ((s.countDrops 1).setProgress (.sending rest k)) :=
  enqueueStep_more (pushOne_of_full_goOn h hq b rest.length k) hr

/-! ### An uninterrupted run -/

/-- How many of these bytes find room (43_frame_encoder R213). -/
def State.roomFor (s : State) (bytes : List Byte) : Nat := min bytes.length (s.cfg.rbCap - s.rb.count s.cfg)

theorem State.roomFor_of_full {s : State} (h : s.rb.count s.cfg = s.cfg.rbCap) (bytes : List Byte) :
    s.roomFor bytes = 0 := by
  simp [State.roomFor, h]

/-- Where the first byte finds room, the others find what it leaves. -/
theorem State.roomFor_cons {s u : State} (hroom : s.rb.count s.cfg < s.cfg.rbCap) (hcfg : u.cfg = s.cfg)
    (hcount : u.rb.count s.cfg = s.rb.count s.cfg + 1) (b : Byte) (rest : List Byte) :
    s.roomFor (b :: rest) = u.roomFor rest + 1 := by
  unfold State.roomFor
  rw [hcfg, hcount, List.length_cons]
  omega

/-- `s` at the end of a SEND_QUEUE that pushed the first `m` of its `bytes` left, the ring buffer being `rb` then, and
had pushed `k` before (43_frame_encoder R213, R216). -/
def State.sent (s : State) (rb : RingBuffer) (bytes : List Byte) (k m : Nat) : State :=
  { s with
    rb := rb
    cntQueueDrop := s.cntQueueDrop + BitVec.ofNat 32 (bytes.length - m) }.finishSend (k + m)

/-- What stood in progress does not show at the end. -/
theorem State.sent_setProgress (s : State) (g : Progress) (rb : RingBuffer) (bytes : List Byte) (k m : Nat) :
    (s.setProgress g).sent rb bytes k m = s.sent rb bytes k m :=
  State.setProgress_respond { s with
    rb := rb, cntQueueDrop := s.cntQueueDrop + BitVec.ofNat 32 (bytes.length - m) } g _ _ _ _

/-- A byte pushed, and then the end. -/
theorem State.sent_of_pushed (s : State) (rb rb' : RingBuffer) (b : Byte) (rest : List Byte) (k m : Nat) :
    ({ s with rb := rb } : State).sent rb' rest (k + 1) m = s.sent rb' (b :: rest) k (m + 1) := by
  unfold State.sent
  rw [List.length_cons, Nat.add_sub_add_right, Nat.add_right_comm, Nat.add_assoc k m 1]

/-- A byte dropped, and then the end with no more pushed. -/
theorem State.sent_of_dropped (s : State) (rb : RingBuffer) (b : Byte) (rest : List Byte) (k : Nat) :
    (s.countDrops 1).sent rb rest k 0 = s.sent rb (b :: rest) k 0 := by
  unfold State.sent
  have hdrop : s.cntQueueDrop + BitVec.ofNat 32 1 + BitVec.ofNat 32 (rest.length - 0) =
      s.cntQueueDrop + BitVec.ofNat 32 ((b :: rest).length - 0) := by
    rw [BitVec.add_assoc, ← BitVec.ofNat_add, List.length_cons, Nat.sub_zero, Nat.sub_zero, Nat.add_comm]
  rw [← hdrop]
  rfl

theorem resume_of_sending {s : State} {rest : List Byte} {k : Nat} (h : s.port.progress = .sending rest k) :
    resume s = enqueueStep rest k s := by
  unfold resume
  rw [h]

/-- The steps of a SEND_QUEUE with bytes left push as many as there is room for, count the others, and answer, whatever
QUEUE_ON_FULL is. -/
theorem enqueueStep_run {s : State} {bytes : List Byte} {k : Nat} (hv : paramsValid s.cfg = true)
    (hg : s.rb.Good s.cfg) (hi : s.inputs = []) (hne : bytes ≠ []) :
    ∃ n t rb, n + 1 ≤ bytes.length ∧ enqueueStep bytes k s = .ok t ∧
      RingBuffer.Pushed s.cfg s.rb rb (bytes.take (s.roomFor bytes)) ∧
      Sys2Proof.core.run n t = .next (s.sent rb bytes k (s.roomFor bytes)) := by
  induction bytes generalizing s k with
  | nil => exact absurd rfl hne
  | cons b rest ih =>
    have hstep {u : State} {k' : Nat} {n : Nat} {t v : State} (hcfg : u.cfg = s.cfg) (hin : u.inputs = [])
        (hu : u.port.progress = .sending rest k') (h : enqueueStep rest k' u = .ok t)
        (hrun : Sys2Proof.core.run n t = .next v) : Sys2Proof.core.run (n + 1) u = .next v :=
      run_succ_of_resume (hcfg ▸ hv) hin (by simp [hu]) ((resume_of_sending hu).trans h) hrun
    rcases hg.count.lt_or_eq with hroom | hfull
    · obtain ⟨rb, hpushed, hgood, hcount, hmore, hlast⟩ := enqueueStep_of_room hv hg hroom b rest k
      by_cases hr : rest = []
      · subst hr
        have hm : s.roomFor [b] = 0 + 1 := by
          simp only [State.roomFor, List.length_singleton]
          omega
        refine ⟨0, _, rb, le_rfl, hlast rfl, by rwa [hm], ?_⟩
        rw [hm, ← State.sent_of_pushed s rb, run_zero]
        simp [State.sent]
      · generalize hu : ({ s with rb := rb } : State).setProgress (.sending rest (k + 1)) = u at hmore
        obtain ⟨n, t, rb', hn, ht, hpushed', hrun⟩ := ih (s := u) (k := k + 1) (hu ▸ hv) (hu ▸ hgood) (hu ▸ hi) hr
        have hm : s.roomFor (b :: rest) = u.roomFor rest + 1 :=
          State.roomFor_cons hroom (by rw [← hu]; rfl) (by rw [← hu]; exact hcount) b rest
        have hsent : u.sent rb' rest (k + 1) (u.roomFor rest) = s.sent rb' (b :: rest) k (u.roomFor rest + 1) := by
          rw [← State.sent_of_pushed s rb, ← hu, State.sent_setProgress]
        refine ⟨n + 1, u, rb', by simpa using hn, hmore hr, ?_, ?_⟩
        · rw [hm, List.take_succ_cons]
          exact hpushed.cons hv (by simpa [← hu] using hpushed')
        · rw [hm, ← hsent]
          exact hstep (by simp [← hu]) (by simpa [← hu] using hi) (by simp [← hu]) ht hrun
    · have hm := State.roomFor_of_full hfull
      by_cases hq : s.cfg.queueOnFull = .stop ∨ rest = []
      · refine ⟨0, _, s.rb, by simp, enqueueStep_of_full_last hfull b hq k, ?_, ?_⟩
        · rw [hm]
          exact hg.pushed_nil
        · rw [hm, run_zero]
          rfl
      · rw [not_or] at hq
        obtain ⟨hstop, hr⟩ := hq
        have hgoOn : s.cfg.queueOnFull = .goOn := by
          cases h : s.cfg.queueOnFull
          · exact absurd h hstop
          · rfl
        obtain ⟨n, t, rb', hn, ht, hpushed', hrun⟩ := ih (s := (s.countDrops 1).setProgress (.sending rest k)) (k := k)
          hv hg hi hr
        have hm' : ((s.countDrops 1).setProgress (.sending rest k)).roomFor rest = 0 := hm rest
        rw [hm'] at hpushed' hrun
        refine ⟨n + 1, _, rb', by simpa using hn, enqueueStep_of_full_more hfull b hgoOn hr k, ?_, ?_⟩
        · rw [hm]
          exact hpushed'
        · rw [hm, ← State.sent_of_dropped, ← State.sent_setProgress (s.countDrops 1) (.sending rest k)]
          exact hstep rfl hi (by simp) ht hrun

/-! ### The statement -/

theorem encodeFrame_length (prof : CrcProfile) (id : Byte) (payload : List Byte) :
    (encodeFrame prof id payload).length = payload.length + 7 := by
  simp [encodeFrame]

theorem encodeFrame_eq_cons (prof : CrcProfile) (id : Byte) (payload : List Byte) :
    encodeFrame prof id payload = 0xA5 :: (encodeFrame prof id payload).tail := rfl

/-- An accepted SEND_QUEUE of P, with two contexts, begins with its first push (43_frame_encoder R211, R213). -/
theorem exec_sendQueue_of_two {s : State} {id : Byte} {payload : List Byte} (hv : paramsValid s.cfg = true)
    (h2 : s.twoContexts = true) (ht : s.turn = .p) (hpos : 1 ≤ payload.length)
    (hmax : payload.length ≤ s.cfg.maxPayload) :
    exec (.sendQueue id payload) s = outcome (enqueueStep (encodeFrame s.cfg.crcProfile id payload) 0 s) := by
  have hadmit : s.admits (.sendQueue id payload) = true := admits_of_mayIssue (by rw [ht]; rfl)
  have haccept : sendAccepted s.cfg payload = true := by simp [sendAccepted, hmax]; omega
  show guarded _ s _ = _
  rw [guarded_of_accepted hv hadmit, if_pos haccept, if_pos h2]

/-- RH16 of SEND_QUEUE is the count, where it fits (43_frame_encoder R213, notes/assumptions/14). -/
theorem sendCount16_of_lt {k : Nat} (h : k < 65536) : sendCount16 k = BitVec.ofNat 16 k := if_pos h

/-- Settles O41: the command's start by its first push, its end by induction on the bytes left, and every other step by
the three things a push can come to. -/
theorem sendQueueInStepsEnqueuesTheSame : Obligations.SendQueueInStepsEnqueuesTheSame := by
  refine ⟨fun s id payload hg h2 ht hi hpos hmax => ?_, fun s u b rest k hg hu hp => ?_⟩
  · have hexec := exec_sendQueue_of_two (id := id) hg.cfg h2 ht hpos hmax
    have hlen := encodeFrame_length s.cfg.crcProfile id payload
    refine ⟨fun hroom => ?_, ?_⟩
    · rw [encodeFrame_eq_cons] at hexec
      obtain ⟨rb, hpushed, -, -, hmore, -⟩ := enqueueStep_of_room hg.cfg hg.rb hroom 0xA5 _ 0
      refine ⟨rb, hpushed, ?_⟩
      rw [hexec, hmore (List.ne_nil_of_length_pos (by rw [List.length_tail, hlen]; omega)),
        setProgress_of_p (s := { s with rb := rb }) h2 ht]
      rfl
    · obtain ⟨n, t, rb, hn, hstart, hpushed, hrun⟩ := enqueueStep_run (k := 0) hg.cfg hg.rb hi
        (List.ne_nil_of_length_pos (l := encodeFrame s.cfg.crcProfile id payload) (by omega))
      rw [State.sent, hlen, Nat.zero_add] at hrun
      rw [hstart] at hexec
      exact ⟨n, s.roomFor (encodeFrame s.cfg.crcProfile id payload), t, rb, _, by omega,
        by rw [State.roomFor, hlen], hpushed, sendCount16_of_lt, hexec, hrun⟩
  · have hug : u.Good := hg.of_turnedTo hu
    have hstep : step s = outcome (enqueueStep (b :: rest) k u) := by
      rw [step_of_progress hg.cfg hu (by simp [hp]), resume_of_sending hp]
    refine ⟨sendCount16 k, sendCount16 (k + 1), sendCount16_of_lt, sendCount16_of_lt, fun hroom => ?_,
      fun hfull hq => ?_, fun hfull hq hr => ?_⟩
    · obtain ⟨rb, hpushed, -, -, hmore, hlast⟩ := enqueueStep_of_room hug.cfg hug.rb hroom b rest k
      exact ⟨rb, hpushed, fun hr => by rw [hstep, hmore hr]; rfl, fun hr => by rw [hstep, hlast hr]; rfl⟩
    · rw [hstep, enqueueStep_of_full_last hfull b hq k]
      rfl
    · rw [hstep, enqueueStep_of_full_more hfull b hq hr k]
      rfl

end Sys2Proof.Machine
end

section
/-! SUPPORT. What pops, padding and queueing leave in the ring buffer and in the transmit buffer, in the words of the
statements: `PoppedInto`, `PaddedFrom` and `ArmedFrom` (44_pull_bus_scheduler R234 to R237). -/

namespace Sys2Proof.Machine

/-- A read of the transmit buffer after pops: a byte popped, or the byte that was there. -/
theorem State.BlockGood.read_takeIn {s : State} (hg : s.BlockGood) (m n k : Nat) :
    Memory.read (s.takeIn m n).tx k =
      if m ≤ k ∧ k < m + ((s.rb.contents s.cfg).take n).length
        then ((s.rb.contents s.cfg).take n).getD (k - m) Memory.unlisted else Memory.read s.tx k :=
  Memory.read_writeBytes hg.tx.1 m k _

/-- One pop, where there is a byte (44_pull_bus_scheduler R234). -/
theorem State.BlockGood.takeIn_poppedInto {s : State} (hg : s.BlockGood) (m : Nat) :
    PoppedInto s (s.takeIn m (min 1 (s.rb.count s.cfg))) m where
  popped := by
    show (s.rb.dropOldest s.cfg _).contents s.cfg = _
    rw [hg.rb.contents_dropOldest hg.cfg (Nat.min_le_right _ _)]
    rcases Nat.eq_zero_or_pos (s.rb.count s.cfg) with h | h
    · simp [RingBuffer.contents_eq_nil_iff.2 h]
    · rw [Nat.min_eq_left h]
  ring := ⟨rfl, rfl⟩
  byte := fun b hb => by
    obtain ⟨later, hc⟩ := List.head?_eq_some_iff.1 hb
    have h : 0 < s.rb.count s.cfg := RingBuffer.contents_ne_nil_iff.1 (by simp [hc])
    rw [hg.read_takeIn, Nat.min_eq_left h, hc]
    simp
  others := fun k hk => by
    rw [hg.read_takeIn, if_neg]
    rw [List.length_take, RingBuffer.contents_length]
    rcases hk with hk | hk
    · omega
    · rw [RingBuffer.contents_eq_nil_iff.1 hk]
      omega
  rest := rfl

/-- The padding of `m` bytes (44_pull_bus_scheduler R235 to R237). -/
theorem State.BlockGood.padded_paddedFrom {s : State} (hg : s.BlockGood) {m : Nat} (hm : m ≤ s.cfg.xferCap) :
    PaddedFrom s (s.padded m) m where
  length := State.padded_txLen hg.cfg hm
  filler := fun k h1 h2 => by
    show Memory.read (Memory.writeBytes s.tx m _) k = _
    rw [Memory.read_writeBytes hg.tx.1, List.length_replicate, if_pos (by omega), List.getD_replicate _ (by omega)]
  others := fun k hk => by
    show Memory.read (Memory.writeBytes s.tx m _) k = _
    rw [Memory.read_writeBytes hg.tx.1, List.length_replicate, if_neg (by omega)]
  rest := rfl

/-- The bytes a pass takes are the first of the next transfer (44_pull_bus_scheduler R234). -/
theorem take_min_count (s : State) : (s.rb.contents s.cfg).take (min s.cfg.xferCap (s.rb.count s.cfg)) =
    (s.rb.contents s.cfg).take s.cfg.xferCap := by
  rw [← RingBuffer.contents_length, ← List.take_eq_take_min]

theorem drop_min_count (s : State) : (s.rb.contents s.cfg).drop (min s.cfg.xferCap (s.rb.count s.cfg)) =
    (s.rb.contents s.cfg).drop s.cfg.xferCap := by
  rcases Nat.le_total s.cfg.xferCap (s.rb.count s.cfg) with h | h
  · rw [Nat.min_eq_left h]
  · rw [Nat.min_eq_right h, List.drop_of_length_le (by simp), List.drop_of_length_le (by simpa using h)]

/-- The next transfer, with the number of its bytes that come from the ring buffer. -/
theorem State.nextTransfer_eq (s : State) : s.nextTransfer =
    (s.rb.contents s.cfg).take (min s.cfg.xferCap (s.rb.count s.cfg)) ++
      List.replicate (transferLength s.cfg (min s.cfg.xferCap (s.rb.count s.cfg)) -
        min s.cfg.xferCap (s.rb.count s.cfg)) filler := by
  rw [take_min_count]
  simp [State.nextTransfer]

theorem State.nextTransfer_length {s : State} (hv : paramsValid s.cfg = true) :
    s.nextTransfer.length = transferLength s.cfg (min s.cfg.xferCap (s.rb.count s.cfg)) := by
  obtain ⟨-, -, hle, -⟩ := transferLength_fits hv (Nat.min_le_left s.cfg.xferCap (s.rb.count s.cfg))
  rw [State.nextTransfer_eq, List.length_append, List.length_take, RingBuffer.contents_length, List.length_replicate]
  omega

/-- All the pops of a pass, its padding and its queueing (44_pull_bus_scheduler R233 to R237). -/
def State.armed (s : State) : State :=
  ((s.takeIn 0 (min s.cfg.xferCap (s.rb.count s.cfg))).padded (min s.cfg.xferCap (s.rb.count s.cfg))).queuedTransfer

/-- The transmit buffer then starts with the next transfer. -/
theorem State.armed_tx (s : State) : s.armed.tx = Memory.writeBytes s.tx 0 s.nextTransfer := by
  rw [State.nextTransfer_eq, Memory.writeBytes_append, List.length_take, RingBuffer.contents_length, Nat.zero_add,
    Nat.min_assoc, Nat.min_self]
  rfl

theorem State.BlockGood.armed_txLen {s : State} (hg : s.BlockGood) : s.armed.txLen.toNat = s.nextTransfer.length := by
  rw [State.nextTransfer_length hg.cfg]
  exact State.padded_txLen (s := s.takeIn 0 _) hg.cfg (Nat.min_le_left _ _)

theorem State.BlockGood.armed_transfer {s : State} (hg : s.BlockGood) :
    Memory.readPrefix s.armed.tx s.nextTransfer.length = s.nextTransfer := by
  rw [State.armed_tx]
  exact Memory.readPrefix_writeBytes hg.tx.1 _

/-- A drained state that armed (44_pull_bus_scheduler R230). -/
theorem State.BlockGood.armedFrom {s : State} (hg : s.BlockGood) {P : Parser} {frames : List Frame}
    (hd : (s.drained P).BlockGood) (hfeed : s.pl.feed s.cfg s.received = .ok (P, frames)) (h0 : s.pull.inFlight = 0) :
    ArmedFrom s (s.drained P).armed frames where
  drained := hfeed
  popped := by
    show (s.rb.dropOldest s.cfg (min s.cfg.xferCap (s.rb.count s.cfg))).contents s.cfg = _
    rw [hg.rb.contents_dropOldest hg.cfg (Nat.min_le_right _ _)]
    exact drop_min_count s
  ring := ⟨rfl, rfl⟩
  transfer := hd.armed_transfer
  beyond := fun k hk => by
    rw [State.armed_tx, Memory.read_writeBytes hd.tx.1, if_neg]
    · rfl
    · show ¬ (0 ≤ k ∧ k < 0 + s.nextTransfer.length)
      omega
  length := hd.armed_txLen
  armed := rfl
  queued := by
    have hq : (s.drained P).armed.pull.queued =
        s.pull.queued ++ [Memory.readPrefix (s.drained P).armed.tx (s.drained P).armed.txLen.toNat] := rfl
    rw [hd.armed_txLen, hd.armed_transfer] at hq
    have hf : (s.drained P).armed.pull.inFlight = 1 := by
      show s.pull.inFlight + 1 = 1
      rw [h0]
    have : (s.drained P).armed.pull = { s.pull with
        completed := 0
        inFlight := (s.drained P).armed.pull.inFlight
        queued := (s.drained P).armed.pull.queued } := rfl
    rw [this, hq, hf]
    rfl
  rest := rfl

end Sys2Proof.Machine
end

section
/-! PROOF. A step of a pass that is filling pops one byte, or pads, queues, arms and goes on (20_memory R76,
44_pull_bus_scheduler R234 to R237). -/

namespace Sys2Proof.Machine

theorem resume_of_filling {s : State} {pass : Pass} {frames : List Frame} {m : Nat}
    (h : s.port.progress = .filling pass frames m) : resume s = fillStep pass (afterPass pass) frames m s := by
  unfold resume
  rw [h]

/-- Settles O47: the step is one step of filling, and its two equations are the two clauses. -/
theorem fillingStepPopsOrArms : Obligations.FillingStepPopsOrArms := by
  intro s u pass frames m hg hu hp
  have hug : u.Good := hg.of_turnedTo hu
  have hb : u.BlockGood := hug.blockGood
  have hm : m < u.cfg.xferCap := hug.of_filling hp
  have hstep : step s = outcome (fillStep pass (afterPass pass) frames m u) := by
    rw [step_of_progress hg.cfg hu (by simp [hp]), resume_of_filling hp]
  have hpop := hb.takeIn_poppedInto m
  refine ⟨fun hne hmore => ?_, fun hlast => ?_⟩
  · have hpos := RingBuffer.contents_ne_nil_iff.1 hne
    rw [Nat.min_eq_left hpos] at hpop
    exact ⟨_, hpop, by rw [hstep, hb.fillStep_more hpos hmore]; rfl⟩
  · rw [RingBuffer.contents_eq_nil_iff] at hlast
    rw [hb.fillStep_last hm hlast] at hstep
    have hmm : m + min 1 (u.rb.count u.cfg) ≤ u.cfg.xferCap := by omega
    have hpad := (hb.takeIn (Nat.min_le_right 1 _) hmm).padded_paddedFrom hmm
    rw [RingBuffer.contents_length]
    refine ⟨_, _, hpop, hpad, fun hheld => ?_, fun hret => ?_⟩
    · exact hstep.trans (outcome_eq_next.2 (queueTransfer_of_held hheld))
    · obtain ⟨t, ht, hans⟩ := queueTransfer_answers (s := (u.takeIn m (min 1 _)).padded _) hug.pp
        (State.padded_txLen_le (s := u.takeIn m _) hug.cfg hmm) hret pass frames
      exact ⟨t, hstep.trans (outcome_eq_next.2 ht), hans⟩

end Sys2Proof.Machine
end

section
/-! PROOF. With two contexts a pass starts with its first pop, and without interruption it ends as with one context
(20_memory R76, 44_pull_bus_scheduler R230 to R237). -/

namespace Sys2Proof.Machine

/-! ### The start of a pass -/

/-- A sound completion, nothing in flight and no lost transaction: no check of the report rejects it
(44_pull_bus_scheduler R231). -/
theorem reportFault_of_sound {s : State} (hs : s.completionSound) (h0 : s.pull.inFlight = 0)
    (hlost : s.pull.completed = 0 → s.tip = false) :
    reportFault s.tip s.txLen.toNat s.pull.completed s.pull.rxCount s.pull.inFlight = none := by
  unfold reportFault
  rcases hs with hc | ⟨hc, htip, hr⟩
  · simp [hc, h0, hlost hc]
  · simp [hc, h0, htip, hr]

/-- `tip` is clear after such a report (44_pull_bus_scheduler R232). -/
theorem drained_of_not_lost {s : State} (hlost : s.pull.completed = 0 → s.tip = false) (P : Parser) :
    s.drained P = { s with pl := P, tip := false, pull := { s.pull with completed := 0 } } := by
  have htip : (s.tip && s.pull.completed == 0) = false := by
    by_cases hc : s.pull.completed = 0
    · simp [hlost hc]
    · simp [hc]
  unfold State.drained
  rw [htip]
  rfl

/-- A pass that finds a sound report and nothing in flight drains and goes on to arm (44_pull_bus_scheduler R230). -/
theorem schedPass_of_sound {s : State} {P : Parser} {frames : List Frame} (hret : s.pull.pollReturns = true)
    (hs : s.completionSound) (h0 : s.pull.inFlight = 0) (hlost : s.pull.completed = 0 → s.tip = false)
    (hdrain : drain s.pull.completed s.pull.rxCount { s with pull := s.pull.polled } = .ok (s.drained P, frames))
    (pass : Pass) (finish : AfterPass) :
    schedPass pass finish s = fillAndArm pass finish frames (s.drained P) := by
  unfold schedPass passAfterPoll
  rw [if_pos hret]
  dsimp only
  rw [reportFault_of_sound hs h0 hlost, hdrain]
  exact if_pos h0

/-- The command of a pass, issued by C with two contexts, is its scheduling pass and what follows it. -/
theorem exec_passCommand {s : State} (hv : paramsValid s.cfg = true) (ht : s.turn = .c) (pass : Pass) :
    exec pass.command s = outcome (schedPass pass (afterPass pass) s) := by
  have hadmit : s.admits pass.command = true := admits_of_mayIssue (by rw [ht]; cases pass <;> rfl)
  cases pass <;> exact guarded_of_accepted hv hadmit

/-! ### An uninterrupted run -/

/-- The steps of a filling pass, one pop each, come to what all its pops at once come to. -/
theorem State.BlockGood.fillStep_run {s t : State} (hg : s.BlockGood) (hi : s.inputs = []) {pass : Pass}
    {frames : List Frame} {m fuel : Nat} (hm : m + (fuel + 1) = s.cfg.xferCap)
    (ht : queueTransfer pass (afterPass pass) frames ((s.takeIn m (min (fuel + 1) (s.rb.count s.cfg))).padded
      (m + min (fuel + 1) (s.rb.count s.cfg))) = .ok t) :
    ∃ n start, n ≤ fuel ∧ fillStep pass (afterPass pass) frames m s = .ok start ∧
      Sys2Proof.core.run n start = .next t := by
  induction fuel generalizing s m with
  | zero =>
    refine ⟨0, t, le_rfl, ?_, run_zero t⟩
    rwa [hg.fillStep_last (by omega) (.inr hm)]
  | succ fuel ih =>
    rcases Nat.eq_zero_or_pos (s.rb.count s.cfg) with h | h
    · refine ⟨0, t, Nat.zero_le _, ?_, run_zero t⟩
      rw [hg.fillStep_last (by omega) (.inl h)]
      rwa [h, Nat.min_zero] at ht ⊢
    · have hnext : min (fuel + 1 + 1) (s.rb.count s.cfg) = 1 + min (fuel + 1) (s.rb.count s.cfg - 1) := by omega
      rw [hnext, ← Nat.add_assoc, ← hg.takeIn_takeIn (by omega)] at ht
      have hu : (s.takeIn m 1).BlockGood := hg.takeIn h (by omega)
      generalize hstart : (s.takeIn m 1).setProgress (.filling pass frames (m + 1)) = start
      have hcount : start.rb.count start.cfg = s.rb.count s.cfg - 1 := by
        rw [← hstart]
        exact hg.count_takeIn (m := m) h
      obtain ⟨n, next, hn, hfill, hrun⟩ := ih (s := start) (m := m + 1) (hstart ▸ hu.setProgress _) (hstart ▸ hi)
        (by rw [← hstart]; show m + 1 + (fuel + 1) = s.cfg.xferCap; omega)
        (by rwa [hcount, ← hstart, State.takeIn_setProgress, State.padded_setProgress, queueTransfer_setProgress])
      have hp : start.port.progress = .filling pass frames (m + 1) := by simp [← hstart]
      refine ⟨n + 1, start, by omega, by rw [← hstart]; exact hg.fillStep_more h (by omega) _ _ _, ?_⟩
      exact run_succ_of_resume (hstart ▸ hg.cfg) (hstart ▸ hi) (by simp [hp]) ((resume_of_filling hp).trans hfill) hrun

/-- Settles O46: the pass drains and begins to fill; its first step is one step of filling, and its run comes to what
one context's pops, padding and queueing come to. -/
theorem passRunsInStepsWithTwoContexts : Obligations.PassRunsInStepsWithTwoContexts := by
  intro s pass hg h2 ht hi hret hs h0 hlost
  obtain ⟨hpoll, hqueue⟩ := hret
  obtain ⟨P, frames, hfeed, hd, hdrain⟩ := hg.blockGood.drain hs
  obtain ⟨-, -, -, -, hcap, -⟩ := paramsValid_iff.1 hg.cfg
  have hexec : exec pass.command s = outcome (fillStep pass (afterPass pass) frames 0 (s.drained P)) := by
    rw [exec_passCommand hg.cfg ht, schedPass_of_sound hpoll hs h0 hlost hdrain]
    exact congrArg outcome (if_pos h2)
  refine ⟨fun hne hroom => ?_, ?_⟩
  · have hpos : 0 < (s.drained P).rb.count (s.drained P).cfg := RingBuffer.contents_ne_nil_iff.1 hne
    have hpop := hd.takeIn_poppedInto 0
    rw [Nat.min_eq_left hpos] at hpop
    refine ⟨P, frames, (s.drained P).takeIn 0 1, hfeed, drained_of_not_lost hlost P ▸ hpop, ?_⟩
    rw [hexec, hd.fillStep_more hpos hroom, setProgress_of_c (s := (s.drained P).takeIn 0 1) h2 ht]
    rfl
  · obtain ⟨k, hk⟩ : ∃ k, s.cfg.xferCap = k + 1 := ⟨s.cfg.xferCap - 1, by omega⟩
    obtain ⟨t, hq, hans⟩ := queueTransfer_answers (s := ((s.drained P).takeIn 0 _).padded _) hd.pp
      (State.padded_txLen_le (s := (s.drained P).takeIn 0 _) hd.cfg
        (Nat.min_le_left _ ((s.drained P).rb.count (s.drained P).cfg))) hqueue pass frames
    obtain ⟨n, start, hn, hstart, hrun⟩ := hd.fillStep_run hi (m := 0) (fuel := k) (by rw [Nat.zero_add]; exact hk.symm)
      (by rw [Nat.zero_add, ← hk]; exact hq)
    exact ⟨n, start, (s.drained P).armed, frames, t, by omega, by rw [hexec, hstart]; rfl, hrun,
      hg.blockGood.armedFrom hd hfeed h0, hans⟩

end Sys2Proof.Machine
end

section
/-! SUPPORT. The fields of a command word and its data phase: which of them spell a command, and that they spell no other
(30_encoding R101, R102, R113, R114). -/

namespace Sys2Proof

open Machine (lo8 hi8 u16Of)

/-! ### The half word -/

theorem u16Of_eq_iff {lo hi : Byte} {v : U16} : u16Of lo hi = v ↔ lo = lo8 v ∧ hi = hi8 v := by
  constructor
  · rintro rfl
    exact ⟨(Machine.lo8_u16Of lo hi).symm, (Machine.hi8_u16Of lo hi).symm⟩
  · rintro ⟨rfl, rfl⟩
    exact Machine.u16Of_lo8_hi8 v

theorem u16Of_eq_zero_iff {lo hi : Byte} : u16Of lo hi = 0 ↔ lo = 0 ∧ hi = 0 := u16Of_eq_iff

theorem u16Of_toNat (lo hi : Byte) : (u16Of lo hi).toNat = lo.toNat + 256 * hi.toNat := by
  have hdisjoint : lo.setWidth 16 &&& (hi.setWidth 16 <<< 8) = 0 := by
    apply BitVec.eq_of_getLsbD_eq
    intro i hi'
    by_cases h : i < 8
    · simp [h]
    · simp [h, BitVec.getLsbD_of_ge lo i (by omega)]
  rw [u16Of, ← BitVec.add_eq_or_of_and_eq_zero _ _ hdisjoint]
  simp only [BitVec.toNat_add, BitVec.toNat_setWidth, BitVec.toNat_shiftLeft, Nat.shiftLeft_eq]
  omega

/-- A half word is a parser select when its bits 15:1 are zero (30_encoding R115). -/
theorem exists_parserSel_number_iff {lo hi : Byte} :
    (∃ sel : ParserSel, u16Of lo hi = sel.number) ↔ lo.toNat ≤ 1 ∧ hi = 0 := by
  simp only [u16Of_eq_iff]
  constructor
  · rintro ⟨sel, rfl, rfl⟩
    cases sel <;> decide
  · rintro ⟨hlo, rfl⟩
    have hbit : lo = 0 ∨ lo = 1 := by bv_omega
    rcases hbit with rfl | rfl
    · exact ⟨.pp, rfl, rfl⟩
    · exact ⟨.pl, rfl, rfl⟩

/-- A half word is a register number when 46_control R281 lists it. -/
theorem exists_reg_number_iff {lo hi : Byte} : (∃ reg : Reg, u16Of lo hi = reg.number) ↔
    lo ∈ ([0x00, 0x01, 0x02, 0x03, 0x04, 0x05, 0x10, 0x11, 0x20, 0x21] : List Byte) ∧ hi = 0 := by
  simp only [u16Of_eq_iff]
  constructor
  · rintro ⟨reg, rfl, rfl⟩
    cases reg <;> decide
  · rintro ⟨hlo, rfl⟩
    simp only [List.mem_cons, List.not_mem_nil, or_false] at hlo
    rcases hlo with rfl | rfl | rfl | rfl | rfl | rfl | rfl | rfl | rfl | rfl
    · exact ⟨.cfgMaxPayload, rfl, rfl⟩
    · exact ⟨.cfgRbCap, rfl, rfl⟩
    · exact ⟨.cfgXferCap, rfl, rfl⟩
    · exact ⟨.cfgAlign, rfl, rfl⟩
    · exact ⟨.cfgOptions, rfl, rfl⟩
    · exact ⟨.cfgIdxW, rfl, rfl⟩
    · exact ⟨.cntSendReject, rfl, rfl⟩
    · exact ⟨.cntQueueDrop, rfl, rfl⟩
    · exact ⟨.status, rfl, rfl⟩
    · exact ⟨.rbCount, rfl, rfl⟩

/-! ### The fields of a command -/

/-- The command `i` has these fields and this data phase (30_encoding R113). -/
structure Instr.Spells (i : Instr) (op b8 : Byte) (h16 : U16) (data : List Byte) : Prop where
  opcode : i.opcode = op
  fieldB8 : i.fieldB8 = b8
  fieldH16 : i.fieldH16 = h16
  dataPhase : i.dataPhase = data

theorem Instr.spells_self (i : Instr) : i.Spells i.opcode i.fieldB8 i.fieldH16 i.dataPhase := ⟨rfl, rfl, rfl, rfl⟩

/-- The bytes of a command are its fields, then its data phase. -/
theorem Instr.Spells.encode_eq {i : Instr} {op b8 : Byte} {h16 : U16} {data : List Byte} (h : i.Spells op b8 h16 data) :
    encode i = op :: b8 :: lo8 h16 :: hi8 h16 :: data := by
  obtain ⟨rfl, rfl, rfl, rfl⟩ := h
  rfl

/-- A command is well formed when H16 can carry the length of its data phase (30_encoding R102). -/
theorem Instr.wellFormed_iff {i : Instr} : i.wellFormed = true ↔ i.dataPhase.length < 65536 := by
  cases i with
  | crc16 id data => exact decide_eq_true_iff
  | sendPush id payload => exact decide_eq_true_iff
  | sendQueue id payload => exact decide_eq_true_iff
  | _ => simp [Instr.wellFormed, Instr.dataPhase]

theorem Instr.encodedLength (i : Instr) : Laws.EncodedLength.Statement i := by
  cases i with
  | crcUpdate crc b => exact Laws.EncodedLength.crcUpdate crc b
  | crc16 id data => exact Laws.EncodedLength.crc16 id data
  | rbPush b => exact Laws.EncodedLength.rbPush b
  | rbPop => exact Laws.EncodedLength.rbPop
  | rbIsEmpty => exact Laws.EncodedLength.rbIsEmpty
  | parseByte sel b => exact Laws.EncodedLength.parseByte sel b
  | getFrame sel => exact Laws.EncodedLength.getFrame sel
  | sendPush id payload => exact Laws.EncodedLength.sendPush id payload
  | sendQueue id payload => exact Laws.EncodedLength.sendQueue id payload
  | pullPoll => exact Laws.EncodedLength.pullPoll
  | routerPass => exact Laws.EncodedLength.routerPass
  | rdReg reg => exact Laws.EncodedLength.rdReg reg

/-- The word of a well-formed command asks for its data phase (30_encoding R102). -/
theorem Instr.dataPhase_length {i : Instr} (hw : i.wellFormed = true) :
    i.dataPhase.length = dataPhaseLength i.opcode i.fieldH16 := by
  have h : (encode i).length = 4 + dataPhaseLength i.opcode i.fieldH16 := i.encodedLength hw
  rw [i.spells_self.encode_eq] at h
  simp only [List.length_cons] at h
  omega

theorem dataPhaseLength_lt (op : Byte) (h16 : U16) : dataPhaseLength op h16 < 65536 := by
  unfold dataPhaseLength
  split_ifs
  · exact h16.isLt
  · decide

/-! ### The field decoder -/

/-- The field decoder reads a command's fields as that command. -/
theorem decodeFields_self (i : Instr) : decodeFields i.opcode i.fieldB8 i.fieldH16 i.dataPhase = .ok i := by
  cases i with
  | parseByte sel b => cases sel <;> rfl
  | getFrame sel => cases sel <;> rfl
  | rdReg reg => cases reg <;> rfl
  | _ => rfl

/-- Fields, with a data phase of the length they ask for, that the field decoder reads as a command are that command's
fields. -/
theorem spells_of_decodeFields {op b8 : Byte} {h16 : U16} {data : List Byte} {i : Instr}
    (h : decodeFields op b8 h16 data = .ok i) (hlen : data.length = dataPhaseLength op h16) :
    i.Spells op b8 h16 data := by
  have nodata (h0 : dataPhaseLength op h16 = 0) : [] = data := (List.length_eq_zero_iff.1 (hlen.trans h0)).symm
  have count (hn : dataPhaseLength op h16 = h16.toNat) : BitVec.ofNat 16 data.length = h16 := by
    rw [hlen, hn, BitVec.ofNat_toNat, BitVec.setWidth_eq]
  rcases decodeFields_eq_ok h with ⟨rfl, rfl⟩ | ⟨rfl, rfl⟩ | ⟨rfl, rfl, rfl⟩ | ⟨rfl, rfl, rfl, rfl⟩ |
    ⟨rfl, rfl, rfl, rfl⟩ | ⟨rfl, sel, rfl, rfl⟩ | ⟨rfl, rfl, sel, rfl, rfl⟩ | ⟨rfl, rfl⟩ | ⟨rfl, rfl⟩ |
    ⟨rfl, rfl, rfl, rfl⟩ | ⟨rfl, rfl, rfl, rfl⟩ | ⟨rfl, rfl, reg, rfl, rfl⟩
  · exact ⟨rfl, rfl, rfl, nodata rfl⟩
  · exact ⟨rfl, rfl, count rfl, rfl⟩
  · exact ⟨rfl, rfl, rfl, nodata rfl⟩
  · exact ⟨rfl, rfl, rfl, nodata rfl⟩
  · exact ⟨rfl, rfl, rfl, nodata rfl⟩
  · exact ⟨rfl, rfl, rfl, nodata rfl⟩
  · exact ⟨rfl, rfl, rfl, nodata rfl⟩
  · exact ⟨rfl, rfl, count rfl, rfl⟩
  · exact ⟨rfl, rfl, count rfl, rfl⟩
  · exact ⟨rfl, rfl, rfl, nodata rfl⟩
  · exact ⟨rfl, rfl, rfl, nodata rfl⟩
  · exact ⟨rfl, rfl, rfl, nodata rfl⟩

/-! ### Words that spell a command -/

/-- The word has none of the faults of 30_encoding R114. -/
structure LawfulWord (op b8 h0 h1 : Byte) : Prop where
  opcode : op ∈ ([0x01, 0x02, 0x10, 0x11, 0x12, 0x20, 0x21, 0x30, 0x31, 0x40, 0x50, 0x60] : List Byte)
  reservedB8 : op ∈ ([0x11, 0x12, 0x21, 0x40, 0x50, 0x60] : List Byte) → b8 = 0
  reservedH16 : op ∈ ([0x10, 0x11, 0x12, 0x40, 0x50] : List Byte) → h0 = 0 ∧ h1 = 0
  select : op ∈ ([0x20, 0x21] : List Byte) → h0.toNat ≤ 1 ∧ h1 = 0
  register : op = 0x60 →
    h0 ∈ ([0x00, 0x01, 0x02, 0x03, 0x04, 0x05, 0x10, 0x11, 0x20, 0x21] : List Byte) ∧ h1 = 0

/-- What the field decoder reads as a command is a lawful word (30_encoding R114). -/
theorem lawfulWord_of_decodeFields {op b8 h0 h1 : Byte} {data : List Byte} {i : Instr}
    (h : decodeFields op b8 (u16Of h0 h1) data = .ok i) : LawfulWord op b8 h0 h1 := by
  have free (hop : op ∈ ([0x01, 0x02, 0x30, 0x31] : List Byte)) : LawfulWord op b8 h0 h1 := by
    simp only [List.mem_cons, List.not_mem_nil, or_false] at hop
    rcases hop with rfl | rfl | rfl | rfl <;> constructor <;> simp
  have bare (hop : op ∈ ([0x11, 0x12, 0x40, 0x50] : List Byte)) (hb : b8 = 0) (hh : u16Of h0 h1 = 0) :
      LawfulWord op b8 h0 h1 := by
    have hzero : h0 = 0 ∧ h1 = 0 := u16Of_eq_zero_iff.1 hh
    simp only [List.mem_cons, List.not_mem_nil, or_false] at hop
    rcases hop with rfl | rfl | rfl | rfl <;> constructor <;> simp [hb, hzero]
  rcases decodeFields_eq_ok h with ⟨rfl, -⟩ | ⟨rfl, -⟩ | ⟨rfl, hh, -⟩ | ⟨rfl, hb, hh, -⟩ | ⟨rfl, hb, hh, -⟩ |
    ⟨rfl, sel, hh, -⟩ | ⟨rfl, hb, sel, hh, -⟩ | ⟨rfl, -⟩ | ⟨rfl, -⟩ | ⟨rfl, hb, hh, -⟩ | ⟨rfl, hb, hh, -⟩ |
    ⟨rfl, hb, reg, hh, -⟩
  · exact free (by decide)
  · exact free (by decide)
  · have hzero : h0 = 0 ∧ h1 = 0 := u16Of_eq_zero_iff.1 hh
    constructor <;> simp [hzero]
  · exact bare (by decide) hb hh
  · exact bare (by decide) hb hh
  · have hsel : h0.toNat ≤ 1 ∧ h1 = 0 := exists_parserSel_number_iff.1 ⟨sel, hh⟩
    constructor <;> simp [hsel]
  · have hsel : h0.toNat ≤ 1 ∧ h1 = 0 := exists_parserSel_number_iff.1 ⟨sel, hh⟩
    constructor <;> simp [hb, hsel]
  · exact free (by decide)
  · exact free (by decide)
  · exact bare (by decide) hb hh
  · exact bare (by decide) hb hh
  · have hreg := exists_reg_number_iff.1 ⟨reg, hh⟩
    exact ⟨by decide, fun _ => hb, by simp, by simp, fun _ => hreg⟩

/-- A lawful word spells a command, whatever the bytes of its data phase (30_encoding R113). -/
theorem LawfulWord.exists_decodeFields {op b8 h0 h1 : Byte} (hw : LawfulWord op b8 h0 h1) (data : List Byte) :
    ∃ i, decodeFields op b8 (u16Of h0 h1) data = .ok i := by
  obtain ⟨hop, hb, hh, hsel, hreg⟩ := hw
  have bare {i : Instr} (hop8 : op ∈ ([0x11, 0x12, 0x21, 0x40, 0x50, 0x60] : List Byte))
      (hop16 : op ∈ ([0x10, 0x11, 0x12, 0x40, 0x50] : List Byte)) (h : decodeFields op 0 0 data = .ok i) :
      ∃ i, decodeFields op b8 (u16Of h0 h1) data = .ok i := by
    rw [hb hop8, u16Of_eq_zero_iff.2 (hh hop16)]
    exact ⟨i, h⟩
  simp only [List.mem_cons, List.not_mem_nil, or_false] at hop
  rcases hop with rfl | rfl | rfl | rfl | rfl | rfl | rfl | rfl | rfl | rfl | rfl | rfl
  · exact ⟨_, rfl⟩
  · exact ⟨_, rfl⟩
  · rw [u16Of_eq_zero_iff.2 (hh (by decide))]
    exact ⟨_, rfl⟩
  · exact bare (by decide) (by decide) rfl
  · exact bare (by decide) (by decide) rfl
  · obtain ⟨sel, h⟩ := exists_parserSel_number_iff.2 (hsel (by decide))
    rw [h]
    exact ⟨_, decodeFields_self (.parseByte sel b8)⟩
  · obtain ⟨sel, h⟩ := exists_parserSel_number_iff.2 (hsel (by decide))
    rw [h, hb (by decide)]
    exact ⟨_, decodeFields_self (.getFrame sel)⟩
  · exact ⟨_, rfl⟩
  · exact ⟨_, rfl⟩
  · exact bare (by decide) (by decide) rfl
  · exact bare (by decide) (by decide) rfl
  · obtain ⟨reg, h⟩ := exists_reg_number_iff.2 (hreg rfl)
    rw [h, hb (by decide)]
    exact ⟨_, decodeFields_self (.rdReg reg)⟩

/-! ### The decoder -/

/-- A word with its data phase there in full: the field decoder has the answer (30_encoding R102). -/
theorem decode_of_full {op b8 h0 h1 : Byte} {data later : List Byte}
    (hlen : data.length = dataPhaseLength op (u16Of h0 h1)) :
    decode (op :: b8 :: h0 :: h1 :: (data ++ later)) =
      (decodeFields op b8 (u16Of h0 h1) data).map fun i => (i, later) := by
  simp only [decode, ← hlen, List.length_append, List.take_left, List.drop_left]
  rw [if_neg (by omega)]
  cases decodeFields op b8 (u16Of h0 h1) data <;> rfl

/-- A lawful word with its data phase there in full is a command (30_encoding R113, R114). -/
theorem LawfulWord.exists_decode {op b8 h0 h1 : Byte} {rest : List Byte} (hw : LawfulWord op b8 h0 h1)
    (hlen : dataPhaseLength op (u16Of h0 h1) ≤ rest.length) :
    ∃ i later, decode (op :: b8 :: h0 :: h1 :: rest) = .ok (i, later) := by
  obtain ⟨i, hi⟩ := hw.exists_decodeFields (rest.take (dataPhaseLength op (u16Of h0 h1)))
  have h := decode_of_full (b8 := b8) (later := rest.drop (dataPhaseLength op (u16Of h0 h1)))
    (List.length_take_of_le hlen)
  rw [List.take_append_drop, hi] at h
  exact ⟨i, _, h⟩

/-- Only a lawful word can ask for a data phase (30_encoding R102). -/
theorem dataPhaseLength_of_not_lawful {op b8 h0 h1 : Byte} (hw : ¬ LawfulWord op b8 h0 h1) (h16 : U16) :
    dataPhaseLength op h16 = 0 := by
  refine if_neg fun hop => hw ?_
  rcases hop with rfl | rfl | rfl <;> constructor <;> simp

/-- Every other word is illegal, whatever bytes follow it (30_encoding R114). -/
theorem decode_of_not_lawful {op b8 h0 h1 : Byte} (hw : ¬ LawfulWord op b8 h0 h1) (rest : List Byte) :
    ∃ why, decode (op :: b8 :: h0 :: h1 :: rest) = .error (.illegal why) := by
  have h := decode_of_full (b8 := b8) (data := []) (later := rest) (dataPhaseLength_of_not_lawful hw (u16Of h0 h1)).symm
  rw [List.nil_append] at h
  cases hd : decodeFields op b8 (u16Of h0 h1) [] with
  | ok i => exact absurd (lawfulWord_of_decodeFields hd) hw
  | error e =>
    cases e with
    | truncated => exact absurd hd (decodeFields_ne_truncated _ _ _ _)
    | illegal why => exact ⟨why, by rw [h, hd]; rfl⟩

end Sys2Proof
end

section
/-! PROOF. The encoding and the decoder are inverse to each other, and the decoder refuses exactly the words of
30_encoding R114. -/

namespace Sys2Proof.Machine

/-- Settles O1: the word of a command asks for its data phase, and its fields are read as the command. -/
theorem decodeReadsBackEveryEncoding : Obligations.DecodeReadsBackEveryEncoding := by
  intro i rest hw
  rw [i.spells_self.encode_eq]
  refine (decode_of_full (later := rest) ?_).trans ?_
  · rw [u16Of_lo8_hi8]
    exact Instr.dataPhase_length hw
  · rw [u16Of_lo8_hi8, decodeFields_self]
    rfl

/-- Settles O2: the fields that were read as the command are the command's. -/
theorem encodeWritesBackEveryDecoding : Obligations.EncodeWritesBackEveryDecoding := by
  intro bytes rest i h
  obtain ⟨op, b8, h0, h1, tail, rfl, hlen, hfields, rfl⟩ := decode_eq_ok h
  have hspells := spells_of_decodeFields hfields (List.length_take_of_le hlen)
  constructor
  · rw [Instr.wellFormed_iff, hspells.dataPhase, List.length_take_of_le hlen]
    exact dataPhaseLength_lt _ _
  · rw [hspells.encode_eq, lo8_u16Of, hi8_u16Of]
    simp only [List.cons_append, List.take_append_drop]

/-- Settles O3: each example is the encoding of its command, with nothing after it. -/
theorem exampleWordsDecode : Obligations.ExampleWordsDecode :=
  ⟨decodeReadsBackEveryEncoding (.parseByte .pp 0xA5) [] rfl,
    decodeReadsBackEveryEncoding (.parseByte .pl 0x5A) [] rfl,
    decodeReadsBackEveryEncoding (.crcUpdate 0xFFFF 0x07) [] rfl,
    decodeReadsBackEveryEncoding (.sendQueue 7 [1, 2, 3, 4]) [] rfl,
    decodeReadsBackEveryEncoding (.rdReg .status) [] rfl⟩

/-- Settles O5: such a word is lawful, and its data phase is there. -/
theorem everyOtherWordIsACommand : Obligations.EveryOtherWordIsACommand := by
  intro op b8 h0 h1 rest hop hb hh hsel hreg hlen
  refine LawfulWord.exists_decode ⟨hop, hb, hh, hsel, hreg⟩ ?_
  unfold dataPhaseLength
  split_ifs with hdata
  · rw [u16Of_toNat]
    exact hlen (by simpa using hdata)
  · exact Nat.zero_le _

end Sys2Proof.Machine
end

section
/-! PROOF. The fetch: a step runs the command that the stream starts with, waits while it is not there in full, and
answers ILLEGAL to a word that spells none (30_encoding R102, R114). -/

namespace Sys2Proof.Machine

/-- Settles O6: the turn is a fetch, and the fetch finds the command. -/
theorem stepRunsTheDecodedCommand : Obligations.StepRunsTheDecodedCommand := by
  intro s u i rest hv hu hp hr hd
  rw [step_of_turnedTo hv hu, takeTurn_of_idle hp hr, hd]
  rfl

/-- Settles O7: the turn is a fetch, and the fetch waits. -/
theorem stepWaitsForTheWholeCommand : Obligations.StepWaitsForTheWholeCommand := by
  intro s u hv hu hp hr hd
  rw [step_of_turnedTo hv hu, takeTurn_of_idle hp hr, hd]

/-- The answer to a word that spells no command: one response, at a context that has none in progress. -/
theorem answerIllegal_setStream {u : State} (hp : u.port.progress = .idle) (rest : List Byte) :
    (u.setStream rest).answerIllegal = u.setPort { u.port with
      stream := rest
      responses := u.port.responses ++ [{ status := .illegal, b8 := 0, h16 := 0, data := [] }] } := by
  unfold State.answerIllegal State.respond
  rw [State.setStream_port, ← hp]
  exact State.setPort_setPort u _ _

/-- Settles O4: no such word is lawful, and the decoder refuses it. -/
theorem illegalWordGetsIllegalResponse : Obligations.IllegalWordGetsIllegalResponse := by
  intro s u op b8 h0 h1 rest hv hu hp hr hstream hbad
  have hw : ¬ LawfulWord op b8 h0 h1 := by
    rintro ⟨hop, hb, hh, hsel, hreg⟩
    rcases hbad with h | ⟨h, hne⟩ | ⟨h, hne⟩ | ⟨h, hne⟩ | ⟨h, hne⟩
    · exact h hop
    · exact hne (hb h)
    · exact hne.elim (· (hh h).1) (· (hh h).2)
    · exact hne.elim (fun hlt => Nat.not_lt.2 (hsel h).1 hlt) (· (hsel h).2)
    · exact hne.elim (· (hreg h).1) (· (hreg h).2)
  obtain ⟨why, hd⟩ := decode_of_not_lawful hw rest
  rw [step_of_turnedTo hv hu, takeTurn_of_idle hp hr, hstream, hd]
  exact congrArg Host.Outcome.next (answerIllegal_setStream hp rest)

end Sys2Proof.Machine
end

section
/-! PROOF. A command's steps write the port of its context only: they append one response where the command ends, and none
before (30_encoding R104). -/

namespace Sys2Proof.Machine

/-- `u` is `s` as far as the contexts and their ports go: an operation of the block came between. -/
def SamePorts (s u : State) : Prop :=
  u.twoContexts = s.twoContexts ∧ u.turn = s.turn ∧ u.portP = s.portP ∧ u.portC = s.portC

theorem SamePorts.refl (s : State) : SamePorts s s := ⟨rfl, rfl, rfl, rfl⟩

theorem SamePorts.issuer {s u : State} (h : SamePorts s u) : u.issuer = s.issuer := by
  obtain ⟨h2, ht, -, -⟩ := h
  rw [State.issuer, h2, ht, State.issuer]

theorem SamePorts.portOf {s u : State} (h : SamePorts s u) (x : Context) : u.portOf x = s.portOf x := by
  obtain ⟨-, -, hp, hc⟩ := h
  cases x
  · exact hp
  · exact hc

theorem SamePorts.port {s u : State} (h : SamePorts s u) : u.port = s.port := by
  rw [State.port, h.issuer, h.portOf, State.port]

/-- `t` is after an atomic step of a command at `s`: the command has ended with one response, or is in progress with
none. The stream, the issuing context and the other port are as before. -/
def AnswersOnce (s t : State) : Prop :=
  (t.port.progress = .idle ∧ (∃ r, t.port.responses = s.port.responses ++ [r]) ∨
    t.port.progress ≠ .idle ∧ t.port.responses = s.port.responses) ∧
  t.port.stream = s.port.stream ∧ t.issuer = s.issuer ∧ ∀ x, x ≠ s.issuer → t.portOf x = s.portOf x

/-- What happens at the port of the issuing context is all that happens at the ports. -/
theorem SamePorts.setPort_portOf {s u : State} (h : SamePorts s u) (q : Port) {x : Context} (hx : x ≠ s.issuer) :
    (u.setPort q).portOf x = s.portOf x :=
  (State.withPort_portOf_ne u (h.issuer ▸ hx) q).trans (h.portOf x)

/-- A response ends the command. -/
theorem SamePorts.respond_answersOnce {s u : State} (h : SamePorts s u) {st : Status} {b8 : Byte} {h16 : U16}
    {data : List Byte} : AnswersOnce s (u.respond st b8 h16 data) := by
  refine ⟨.inl ⟨?_, { status := st, b8 := b8, h16 := h16, data := data }, ?_⟩, ?_, h.issuer,
    fun x hx => h.setPort_portOf _ hx⟩
  · rw [State.respond_port]
  · rw [State.respond_port, h.port]
  · rw [State.respond_port, h.port]

/-- A fault is a response too. -/
theorem SamePorts.raise_answersOnce {s u : State} (h : SamePorts s u) (reason : FaultReason) :
    AnswersOnce s (u.raise reason) :=
  SamePorts.respond_answersOnce (u := { u with
    fault := true
    faultReason := if u.fault then u.faultReason else reason.code }) h

/-- Between two atomic steps nothing is answered. -/
theorem SamePorts.setProgress_answersOnce {s u : State} (h : SamePorts s u) {g : Progress} (hg : g ≠ .idle) :
    AnswersOnce s (u.setProgress g) := by
  refine ⟨.inr ⟨?_, ?_⟩, ?_, h.issuer, fun x hx => h.setPort_portOf _ hx⟩
  · rwa [State.setProgress_port]
  · rw [State.setProgress_port, h.port]
  · rw [State.setProgress_port, h.port]

/-! ### The operations that end a command or leave it in progress -/

theorem SamePorts.endsOrWaits {s u t : State} {b8 : Byte} (h : SamePorts s u) (he : EndsOrWaits u t b8) :
    AnswersOnce s t := by
  rcases he with ⟨st, h16, data, rfl⟩ | ⟨armed, events, rfl⟩ | ⟨k, used, armed, events, rfl⟩
  · exact h.respond_answersOnce
  · exact h.setProgress_answersOnce nofun
  · exact h.setProgress_answersOnce nofun

theorem SamePorts.flush_answersOnce {s u : State} (h : SamePorts s u) : AnswersOnce s u.flush := by
  unfold State.flush
  split_ifs
  · exact SamePorts.respond_answersOnce (u := { u with push := u.push.flushed }) h
  · exact h.setProgress_answersOnce nofun

theorem writeAndFlush_answersOnce (s : State) (frame : List Byte) : AnswersOnce s (s.writeAndFlush frame) := by
  unfold State.writeAndFlush
  split_ifs
  · exact SamePorts.flush_answersOnce (u := { s with push := s.push.write frame }) (SamePorts.refl s)
  · exact (SamePorts.refl s).setProgress_answersOnce nofun

theorem enqueueStep_answersOnce {rest : List Byte} {k : Nat} {s t : State} (h : enqueueStep rest k s = .ok t) :
    AnswersOnce s t := by
  obtain ⟨rb, drop, -, ⟨k', rfl⟩ | ⟨rest', k', -, rfl⟩⟩ := enqueueStep_frame h
  · exact SamePorts.respond_answersOnce (u := { s with rb := rb, cntQueueDrop := drop }) (SamePorts.refl s)
  · exact SamePorts.setProgress_answersOnce (u := { s with rb := rb, cntQueueDrop := drop }) (SamePorts.refl s) nofun

theorem enqueueAll_answersOnce {bytes : List Byte} {k : Nat} {s t : State} (h : enqueueAll bytes k s = .ok t) :
    AnswersOnce s t := by
  obtain ⟨rb, drop, k', -, rfl⟩ := enqueueAll_frame h
  exact SamePorts.respond_answersOnce (u := { s with rb := rb, cntQueueDrop := drop }) (SamePorts.refl s)

theorem SamePorts.queueTransfer_answersOnce {s u t : State} (hu : SamePorts s u) {pass : Pass} {frames : List Frame}
    (h : queueTransfer pass (afterPass pass) frames u = .ok t) : AnswersOnce s t := by
  rcases queueTransfer_frame h with ⟨-, pp, push, he⟩ | ⟨-, rfl⟩
  · exact SamePorts.endsOrWaits (u := { u.queuedTransfer with pp := pp, push := push }) hu he
  · exact hu.setProgress_answersOnce nofun

theorem fillStep_answersOnce {pass : Pass} {frames : List Frame} {m : Nat} {s t : State}
    (h : fillStep pass (afterPass pass) frames m s = .ok t) : AnswersOnce s t := by
  obtain ⟨tail, tx, txLen, h⟩ := fillStep_frame h
  have hu : SamePorts s { s with rb := { s.rb with tail := tail }, tx := tx, txLen := txLen } := SamePorts.refl s
  rcases h with ⟨m', rfl⟩ | h
  · exact hu.setProgress_answersOnce nofun
  · exact hu.queueTransfer_answersOnce h

theorem schedPass_answersOnce {pass : Pass} {s t : State} (h : schedPass pass (afterPass pass) s = .ok t) :
    AnswersOnce s t := by
  rcases schedPass_frame h with ⟨-, rfl⟩ | ⟨reason, -, rfl⟩ |
    ⟨-, pl, tip, frames, -, -, ⟨-, pp, push, he⟩ | ⟨-, tail, tx, txLen, h⟩⟩
  · exact (SamePorts.refl s).setProgress_answersOnce nofun
  · exact SamePorts.raise_answersOnce (u := { s with pull := s.pull.polled }) (SamePorts.refl s) reason
  · exact SamePorts.endsOrWaits (u := { s with pull := s.pull.polled, pl := pl, tip := tip, pp := pp, push := push })
      (SamePorts.refl s) he
  · have hu : SamePorts s { s with
        pull := s.pull.polled, pl := pl, tip := tip, rb := { s.rb with tail := tail }, tx := tx, txLen := txLen } :=
      SamePorts.refl s
    rcases h with ⟨-, m', rfl⟩ | h
    · exact hu.setProgress_answersOnce nofun
    · exact hu.queueTransfer_answersOnce h

theorem readPush_answersOnce {k used : Nat} {armed : Bool} {events : List RouterEvent} {s t : State}
    (h : readPush k used armed events s = .ok t) : AnswersOnce s t := by
  obtain ⟨r, -, h⟩ := readPush_eq_ok.1 h
  have hu : SamePorts s { s with pp := r.parser, push := r.transport } := SamePorts.refl s
  rcases h with ⟨left, -, rfl⟩ | ⟨-, rfl⟩
  · exact hu.setProgress_answersOnce nofun
  · exact hu.respond_answersOnce

theorem countPush_answersOnce {armed : Bool} {events : List RouterEvent} {s t : State}
    (h : countPush armed events s = .ok t) : AnswersOnce s t := by
  rcases countPush_eq_ok.1 h with ⟨-, h⟩ | ⟨-, rfl⟩
  · exact readPush_answersOnce h
  · exact (SamePorts.refl s).setProgress_answersOnce nofun

/-! ### The steps of a command -/

/-- The first atomic step of a command, a command that its context may not issue included. -/
theorem exec_answersOnce {i : Instr} {s t : State} (h : exec i s = .next t) : AnswersOnce s t := by
  obtain ⟨-, ⟨-, rfl⟩ | ⟨-, hrun⟩⟩ := exec_frame h
  · exact (SamePorts.refl s).raise_answersOnce _
  rcases hrun with ⟨-, st, b8, h16, data, rfl⟩ | ⟨b, pushed, rb, rfl, -, rfl⟩ | ⟨popped, rb, st, b8, rfl, -, rfl⟩ |
    ⟨sel, b, P, done, rfl, -, rfl⟩ | ⟨-, rfl⟩ | ⟨id, payload, rfl, rfl⟩ | ⟨id, payload, rfl, -, hrun⟩ |
    ⟨id, payload, rfl, -, hrun⟩ | ⟨rfl, hrun⟩ | ⟨rfl, hrun⟩
  · exact (SamePorts.refl s).respond_answersOnce
  · exact SamePorts.respond_answersOnce (u := { s with rb := rb }) (SamePorts.refl s)
  · exact SamePorts.respond_answersOnce (u := { s with rb := rb }) (SamePorts.refl s)
  · exact SamePorts.respond_answersOnce (u := s.setParser sel P) (SamePorts.refl s)
  · exact SamePorts.respond_answersOnce (u := { s with cntSendReject := s.cntSendReject + 1 }) (SamePorts.refl s)
  · exact writeAndFlush_answersOnce s _
  · exact enqueueStep_answersOnce hrun
  · exact enqueueAll_answersOnce hrun
  · exact schedPass_answersOnce hrun
  · exact schedPass_answersOnce hrun

/-- A later atomic step of a command. -/
theorem resume_answersOnce {s t : State} (hp : s.port.progress ≠ .idle) (h : resume s = .ok t) : AnswersOnce s t := by
  unfold resume at h
  cases hg : s.port.progress <;> rw [hg] at h hp
  case idle => exact absurd rfl hp
  case sending => exact enqueueStep_answersOnce h
  case filling => exact fillStep_answersOnce h
  case writing frame => exact Except.ok.inj h ▸ writeAndFlush_answersOnce s frame
  case flushing => exact Except.ok.inj h ▸ (SamePorts.refl s).flush_answersOnce
  case polling => exact schedPass_answersOnce h
  case queueing => exact (SamePorts.refl s).queueTransfer_answersOnce h
  case counting => exact countPush_answersOnce h
  case reading => exact readPush_answersOnce h

/-- A step that gives a next state has valid parameters (70_reset R333). -/
theorem paramsValid_of_step {s t : State} (h : step s = .next t) : paramsValid s.cfg = true := by
  unfold step at h
  split_ifs at h with hv
  simpa using hv

/-- Settles O15: of the first step by what `exec` can do, of a later one by what the command in progress is. -/
theorem commandGivesOneResponse : Obligations.CommandGivesOneResponse := by
  refine ⟨fun i s t h => exec_answersOnce h, fun s u t hu hp h => ?_⟩
  rw [step_of_progress (paramsValid_of_step h) hu hp] at h
  exact resume_answersOnce hp (outcome_eq_next.1 h)

end Sys2Proof.Machine
end

section
/-! PROOF. The bytes of the records and of a response (30_encoding R104, R111, R112). -/

namespace Sys2Proof.Machine

/-- The bytes of a word, least significant first (20_memory R75). -/
theorem u32le_append (s3 s2 s1 s0 : Byte) : u32le (s3 ++ s2 ++ s1 ++ s0) = [s0, s1, s2, s3] := by
  simp only [u32le, List.cons.injEq, and_true]
  refine ⟨BitVec.extractLsb'_append_eq_right, ?_, ?_, ?_⟩
  · exact (BitVec.extractLsb'_append_eq_of_le le_rfl).trans BitVec.extractLsb'_append_eq_right
  · exact (BitVec.extractLsb'_append_eq_of_le (by decide)).trans
      ((BitVec.extractLsb'_append_eq_of_le le_rfl).trans BitVec.extractLsb'_append_eq_right)
  · exact (BitVec.extractLsb'_append_eq_of_le (by decide)).trans
      ((BitVec.extractLsb'_append_eq_of_le (by decide)).trans BitVec.extractLsb'_append_eq_left)

/-- Every word is its four bytes, the most significant one first. -/
theorem bytes_append (v : U32) :
    v.extractLsb' 24 8 ++ v.extractLsb' 16 8 ++ v.extractLsb' 8 8 ++ v.extractLsb' 0 8 = v := by
  have upper : v.extractLsb' 24 8 ++ v.extractLsb' 16 8 = v.extractLsb' 16 16 :=
    BitVec.extractLsb'_append_extractLsb'_eq_extractLsb' rfl
  have upper3 : v.extractLsb' 16 16 ++ v.extractLsb' 8 8 = v.extractLsb' 8 24 :=
    BitVec.extractLsb'_append_extractLsb'_eq_extractLsb' rfl
  have all : v.extractLsb' 8 24 ++ v.extractLsb' 0 8 = v.extractLsb' 0 32 :=
    BitVec.extractLsb'_append_extractLsb'_eq_extractLsb' rfl
  exact (congrArg (· ++ _) ((congrArg (· ++ _) upper).trans upper3)).trans (all.trans BitVec.extractLsb'_eq_self)

/-- A half word is its two bytes. -/
theorem hi8_append_lo8 (v : U16) : hi8 v ++ lo8 v = v :=
  (BitVec.extractLsb'_append_extractLsb'_eq_extractLsb' rfl).trans BitVec.extractLsb'_eq_self

/-- Settles O55: the records stand in their definitions; a scale is its four bytes, and the bytes of a response word are
its fields. -/
theorem responseAndRecordLayout : Obligations.ResponseAndRecordLayout := by
  refine ⟨fun _ => rfl, fun _ => rfl, fun _ => rfl, fun id ch => ?_, fun r => ?_, rfl⟩
  · exact ⟨_, _, _, _, rfl, (bytes_append ch.scale).symm⟩
  · have hword : r.word = hi8 r.h16 ++ lo8 r.h16 ++ r.b8 ++ r.status.code := by
      rw [hi8_append_lo8]
      rfl
    rw [Response.bytes, hword, u32le_append]

end Sys2Proof.Machine
end

section
/-! PROOF. The checksum unit (40_checksum): a turn of the loop loses no bit of the register, so a byte step is injective
in the register and in the byte, and the checksum is a left fold of byte steps. -/

namespace Sys2Proof.Machine

/-! ### One turn of the loop -/

theorem crcShift_zero (poly : U16) : crcShift poly 0 = 0 := rfl

/-- The polynomial's top bit carries the bit that the shift drops. -/
theorem crcShift_getLsbD_top {poly : U16} (hp : poly.getLsbD 15 = true) (c : U16) :
    (crcShift poly c).getLsbD 15 = c.getLsbD 0 := by
  have hshift : (c >>> 1).getLsbD 15 = false :=
    (BitVec.getLsbD_ushiftRight c 1 15).trans (BitVec.getLsbD_of_ge c 16 le_rfl)
  unfold crcShift
  split
  next h => rw [BitVec.getLsbD_xor, hshift, hp, h, Bool.false_xor]
  next h => rw [hshift, Bool.eq_false_of_not_eq_true h]

/-- The top bit of the result tells which branch the turn took, and so what it XORed. -/
theorem crcShift_injective {poly : U16} (hp : poly.getLsbD 15 = true) : Function.Injective (crcShift poly) := by
  intro c d h
  have hlow : c.getLsbD 0 = d.getLsbD 0 := by rw [← crcShift_getLsbD_top hp c, h, crcShift_getLsbD_top hp d]
  have hshift : c >>> 1 = d >>> 1 := by
    unfold crcShift at h
    rw [hlow] at h
    split at h
    · exact (BitVec.xor_left_inj poly).1 h
    · exact h
  refine BitVec.eq_of_getLsbD_eq fun i _ => ?_
  cases i with
  | zero => exact hlow
  | succ i => simpa [Nat.add_comm] using congrArg (·.getLsbD i) hshift

/-! ### One byte -/

theorem crcPoly_eq (prof : CrcProfile) : crcPoly prof = if prof = .x25Named then 0x8408 else 0xA001 := by
  cases prof <;> rfl

theorem crcPoly_getLsbD_top (prof : CrcProfile) : (crcPoly prof).getLsbD 15 = true := by
  cases prof <;> rfl

theorem crcUpdate_eq_iterate (prof : CrcProfile) (crc : U16) (b : Byte) :
    crcUpdate prof crc b = (crcShift (crcPoly prof))^[8] (crc ^^^ b.setWidth 16) := rfl

/-- Two byte steps agree only where what they feed to the loop agrees. -/
theorem crcUpdate_eq_iff {prof : CrcProfile} {c d : U16} {a b : Byte} :
    crcUpdate prof c a = crcUpdate prof d b ↔ c ^^^ a.setWidth 16 = d ^^^ b.setWidth 16 :=
  ((crcShift_injective (crcPoly_getLsbD_top prof)).iterate 8).eq_iff

theorem crcUpdate_left_inj {prof : CrcProfile} {c d : U16} {b : Byte} :
    crcUpdate prof c b = crcUpdate prof d b ↔ c = d :=
  crcUpdate_eq_iff.trans (BitVec.xor_left_inj _)

theorem crcUpdate_right_inj {prof : CrcProfile} {c : U16} {a b : Byte} :
    crcUpdate prof c a = crcUpdate prof c b ↔ a = b := by
  rw [crcUpdate_eq_iff, BitVec.xor_right_inj]
  refine ⟨fun h => ?_, congrArg _⟩
  simpa using congrArg (BitVec.setWidth 8) h

theorem crcUpdate_zero (prof : CrcProfile) : crcUpdate prof 0 0 = 0 :=
  Function.iterate_fixed (crcShift_zero _) 8

/-- Settles O16: the loop's turn is `crcShift`, with the profile's number. -/
theorem crcUpdateIsTheReflectedLoop : Obligations.CrcUpdateIsTheReflectedLoop := by
  intro prof crc b
  rw [← crcPoly_eq]
  exact crcUpdate_eq_iterate prof crc b

/-! ### A byte sequence -/

theorem crcFeed_eq_foldl (prof : CrcProfile) (c : U16) (data : List Byte) :
    crcFeed prof c data = data.foldl (crcUpdate prof) c := by
  induction data generalizing c with
  | nil => rfl
  | cons b data ih => exact ih _

theorem crcFeed_append (prof : CrcProfile) (c : U16) (pre post : List Byte) :
    crcFeed prof c (pre ++ post) = crcFeed prof (crcFeed prof c pre) post := by
  simp only [crcFeed_eq_foldl, List.foldl_append]

theorem crcFeed_left_inj {prof : CrcProfile} {c d : U16} {data : List Byte} :
    crcFeed prof c data = crcFeed prof d data ↔ c = d := by
  induction data generalizing c d with
  | nil => rfl
  | cons b data ih => exact ih.trans crcUpdate_left_inj

/-! ### The final XOR -/

theorem crcFinal_eq_xor (prof : CrcProfile) (c : U16) :
    crcFinal prof c = c ^^^ (if prof = .x25Named then 0xFFFF else 0) := by
  cases prof with
  | asWritten => exact BitVec.xor_zero.symm
  | x25Named => rfl

/-- The final XOR undoes itself. -/
theorem crcFinal_involutive (prof : CrcProfile) : Function.Involutive (crcFinal prof) := fun c => by
  simp only [crcFinal_eq_xor, BitVec.xor_assoc, BitVec.xor_self, BitVec.xor_zero]

/-! ### The checksum -/

theorem crc16_eq_foldl (prof : CrcProfile) (id : Byte) (data : List Byte) :
    crc16 prof id data = crcFinal prof ((id :: data).foldl (crcUpdate prof) 0xFFFF) :=
  congrArg _ (crcFeed_eq_foldl ..)

/-- Two checksums agree only where the check registers before the final XOR agree. -/
theorem crc16_eq_iff {prof : CrcProfile} {id id' : Byte} {data data' : List Byte} :
    crc16 prof id data = crc16 prof id' data' ↔
      crcFeed prof (crcUpdate prof 0xFFFF id) data = crcFeed prof (crcUpdate prof 0xFFFF id') data' :=
  (crcFinal_involutive prof).injective.eq_iff

/-- An appended byte is one more step on the check register, which the final XOR gives back (40_checksum R145). -/
theorem crc16_append_singleton (prof : CrcProfile) (id b : Byte) (data : List Byte) :
    crc16 prof id (data ++ [b]) = crcFinal prof (crcUpdate prof (crcFinal prof (crc16 prof id data)) b) := by
  have hreg : crcFinal prof (crc16 prof id data) = crcFeed prof (crcUpdate prof 0xFFFF id) data :=
    crcFinal_involutive prof _
  rw [hreg]
  exact congrArg _ (crcFeed_append ..)

/-- Settles O18: `crc16_append_singleton` at each profile, whose final XOR stands in `crcFinal`. -/
theorem crcOfAppendedByte : Obligations.CrcOfAppendedByte :=
  ⟨crc16_append_singleton .asWritten, crc16_append_singleton .x25Named, crcUpdate_zero⟩

/-- Settles O19: the register differs after the changed byte, and the same bytes fed later keep it different. -/
theorem changedByteChangesTheChecksum : Obligations.ChangedByteChangesTheChecksum := by
  refine fun prof => ⟨fun id id' data hne h => hne ?_, fun id a b pre post hne h => hne ?_⟩
  · exact crcUpdate_right_inj.1 (crcFeed_left_inj.1 (crc16_eq_iff.1 h))
  · have hfeed := crc16_eq_iff.1 h
    rw [crcFeed_append, crcFeed_append] at hfeed
    exact crcUpdate_right_inj.1 (crcFeed_left_inj.1 hfeed)

/-! ### The commands -/

/-- Settles O17: an accepted command answers what its meaning says, and CRC16's value is the fold of byte steps with the
final XOR. -/
theorem checksumCommandsAnswer : Obligations.ChecksumCommandsAnswer := by
  refine ⟨fun s crc b ⟨hv, ha⟩ => guarded_of_accepted hv ha, fun s id data ⟨hv, ha⟩ => ?_⟩
  rw [← crcFinal_eq_xor, ← crc16_eq_foldl]
  exact guarded_of_accepted hv ha

end Sys2Proof.Machine
end

section
/-! PROOF. The ring buffer (41_ring_buffer): it is a first-in first-out queue of at most RB_CAP bytes, and each of its
three commands answers what its primitive answers. -/

namespace Sys2Proof.Machine

/-! ### The queue -/

/-- One pop from a buffer that holds bytes: the oldest byte out, the others in order, the invariant kept
(41_ring_buffer R163, R169). -/
theorem RingBuffer.Good.rbPop_refines_uncons {cfg : Params} {rb : RingBuffer} (hv : paramsValid cfg = true)
    (hg : rb.Good cfg) {b : Byte} {later : List Byte} (h : rb.contents cfg = b :: later) :
    ∃ rb', rbPop cfg rb = .ok (some b, rb') ∧ rb'.Good cfg ∧ rb'.contents cfg = later := by
  have hone : 1 ≤ rb.count cfg := RingBuffer.contents_ne_nil_iff.1 (by simp [h])
  refine ⟨rb.dropOldest cfg 1, hg.rbPop_of_cons hv h, hg.dropOldest hone, ?_⟩
  rw [hg.contents_dropOldest hv hone, h, List.drop_one, List.tail_cons]

/-- Settles O23: the queue's length is `count`, which the invariant bounds, and push and pop are a queue's own at either
end. -/
theorem ringBufferIsABoundedQueue : Obligations.RingBufferIsABoundedQueue := by
  intro cfg rb hv hg
  simp only [RingBuffer.contents_length, RingBuffer.contents_eq_nil_iff]
  refine ⟨hg.count, fun b hroom => ?push, fun b hfull => rbPush_of_full hfull b, hg.rbPop_of_empty,
    fun b later h => hg.rbPop_refines_uncons hv h⟩
  case push =>
    obtain ⟨rb', hpush, hpushed, hg', -⟩ := hg.rbPush_of_room hv hroom b
    exact ⟨rb', hpush, hg', hpushed.contents⟩

/-! ### The commands -/

/-- RB_PUSH answers what `rbPush` answers (41_ring_buffer R165). -/
theorem exec_rbPush_of_ok {s : State} {b : Byte} {pushed : Bool} {rb : RingBuffer} (hs : s.accepts (.rbPush b))
    (h : rbPush s.cfg s.rb b = .ok (pushed, rb)) :
    exec (.rbPush b) s = .next ({ s with rb := rb }.respond (Status.ofBool pushed) 0 0 []) :=
  (guarded_of_accepted hs.1 hs.2).trans (outcome_eq_next.2 (except_bind_eq_ok.2 ⟨_, h, rfl⟩))

/-- RB_POP answers NO where `rbPop` gives nothing (41_ring_buffer R166). -/
theorem exec_rbPop_of_none {s : State} {rb : RingBuffer} (hs : s.accepts .rbPop)
    (h : rbPop s.cfg s.rb = .ok (none, rb)) : exec .rbPop s = .next (s.respond .no 0 0 []) :=
  (guarded_of_accepted hs.1 hs.2).trans (outcome_eq_next.2 (except_bind_eq_ok.2 ⟨_, h, rfl⟩))

/-- RB_POP answers OK with the byte that `rbPop` gives (41_ring_buffer R166). -/
theorem exec_rbPop_of_some {s : State} {b : Byte} {rb : RingBuffer} (hs : s.accepts .rbPop)
    (h : rbPop s.cfg s.rb = .ok (some b, rb)) : exec .rbPop s = .next ({ s with rb := rb }.respond .ok b 0 []) :=
  (guarded_of_accepted hs.1 hs.2).trans (outcome_eq_next.2 (except_bind_eq_ok.2 ⟨_, h, rfl⟩))

/-- Settles O20: the slot `head mod RB_CAP` is inside the array, and the push is one write to it. -/
theorem rbPushAnswers : Obligations.RbPushAnswers := by
  refine fun s b hs hwf => ⟨fun hfull => exec_rbPush_of_ok hs (rbPush_of_full hfull b), fun hroom => ?_⟩
  have hslot : s.rb.head % s.cfg.rbCap < s.cfg.rbCap := Nat.mod_lt _ (rbCap_facts hs.1).1
  have hread := Memory.read_write hwf (s.rb.head % s.cfg.rbCap) (v := b)
  refine ⟨_, exec_rbPush_of_ok hs (rbPush_eq_ok.2 (.inr ⟨hroom, hslot, rfl, rfl⟩)), ?_, fun k hk => ?_⟩
  · rw [hread, if_pos rfl]
  · rw [hread, if_neg hk]

/-- Settles O21: the slot `tail mod RB_CAP` is inside the array, so of the two cases of `rbPop` the indexes alone
choose. -/
theorem rbPopAnswers : Obligations.RbPopAnswers := by
  refine fun s hs => ⟨fun hempty => ?_, fun hne => ?_⟩
  · exact exec_rbPop_of_none hs (rbPop_eq_ok.2 (.inl ⟨hempty, rfl, rfl⟩))
  · have hslot : s.rb.tail % s.cfg.rbCap < s.cfg.rbCap := Nat.mod_lt _ (rbCap_facts hs.1).1
    exact exec_rbPop_of_some hs (rbPop_eq_ok.2 (.inr ⟨hne, hslot, rfl, rfl⟩))

/-- R164's test, as the status that answers it (41_ring_buffer R167). -/
theorem ofBool_rbIsEmpty (rb : RingBuffer) :
    Status.ofBool (rbIsEmpty rb) = if rb.head = rb.tail then .ok else .no := by
  by_cases h : rb.head = rb.tail
  · simp [rbIsEmpty, Status.ofBool, h]
  · simp [rbIsEmpty, Status.ofBool, beq_eq_false_iff_ne.2 h, h]

/-- Settles O22: an accepted RB_IS_EMPTY responds with what `rbIsEmpty` says of the unchanged buffer. -/
theorem rbIsEmptyAnswers : Obligations.RbIsEmptyAnswers := by
  intro s ⟨hv, ha⟩
  rw [← ofBool_rbIsEmpty]
  exact guarded_of_accepted hv ha

end Sys2Proof.Machine
end

section
/-! SUPPORT. The invariant inside an atomic step, where a command works at the port in use: which operations of the block
keep it, and what may stand in progress where the step ends (42_frame_parser R198, 41_ring_buffer R169, 10_state R47). -/

namespace Sys2Proof.Machine

/-! ### Operations by their answers -/

theorem Parser.Good.of_processByte {cfg : Params} {P Q : Parser} {b : Byte} {done : Bool} (hg : P.Good cfg)
    (h : P.processByte cfg b = .ok (Q, done)) : Q.Good cfg := by
  obtain ⟨Q', done', h', hgood, -⟩ := hg.processByte b
  cases h'.symm.trans h
  exact hgood

theorem Parser.Good.of_pushPhase {cfg : Params} {P : Parser} {k : Nat} {p : PushTransport} {r : PushResult}
    (hg : P.Good cfg) (h : Machine.pushPhase cfg k P p = .ok r) : r.parser.Good cfg := by
  obtain ⟨r', h', hgood⟩ := hg.pushPhase k p
  cases h'.symm.trans h
  exact hgood

theorem RingBuffer.Good.of_rbPush {cfg : Params} {rb rb' : RingBuffer} {b : Byte} {pushed : Bool}
    (hv : paramsValid cfg = true) (hg : rb.Good cfg) (h : rbPush cfg rb b = .ok (pushed, rb')) : rb'.Good cfg := by
  rcases hg.count.lt_or_eq with hroom | hfull
  · obtain ⟨rb'', h', -, hgood, -⟩ := hg.rbPush_of_room hv hroom b
    cases h'.symm.trans h
    exact hgood
  · cases (rbPush_of_full hfull b).symm.trans h
    exact hg

theorem RingBuffer.Good.of_rbPop {cfg : Params} {rb rb' : RingBuffer} {popped : Option Byte}
    (hv : paramsValid cfg = true) (hg : rb.Good cfg) (h : rbPop cfg rb = .ok (popped, rb')) : rb'.Good cfg := by
  cases hc : rb.contents cfg with
  | nil =>
    cases (hg.rbPop_of_empty (RingBuffer.contents_eq_nil_iff.1 hc)).symm.trans h
    exact hg
  | cons b later =>
    cases (hg.rbPop_of_cons hv hc).symm.trans h
    exact hg.dropOldest (RingBuffer.contents_ne_nil_iff.1 (by simp [hc]))

/-! ### What a command in progress needs of the state -/

theorem Progress.good_idle (s : State) (x : Context) : Progress.idle.good s x := by cases x <;> trivial

/-- C's command speaks of the armed transfer as well. -/
theorem Progress.good_congr {s u : State} (hcfg : u.cfg = s.cfg) (h2 : u.twoContexts = s.twoContexts)
    (htip : u.tip = s.tip) (hlen : u.txLen = s.txLen) (x : Context) (g : Progress) : g.good u x ↔ g.good s x := by
  unfold Progress.good State.transferFits
  rw [hcfg, h2, htip, hlen]

/-- P's command speaks of the number of contexts only. -/
theorem Progress.good_p_congr {s u : State} (h2 : u.twoContexts = s.twoContexts) (g : Progress) :
    g.good u .p ↔ g.good s .p := by
  cases g with
  | sending rest k =>
    show u.twoContexts = true ∧ rest ≠ [] ↔ s.twoContexts = true ∧ rest ≠ []
    rw [h2]
  | _ => exact Iff.rfl

/-! ### Inside an atomic step -/

/-- The invariant, but for what stands in progress at the port in use. -/
structure State.MidStep (s : State) : Prop where
  block : s.BlockGood
  queued : ∀ bytes ∈ s.pull.queued, bytes.length ≤ s.cfg.xferCap
  faultReason : s.faultReason.toNat ≤ 7 ∧ (s.faultReason = 0 ↔ s.fault = false)
  other : ∀ x, x ≠ s.issuer → (s.portOf x).progress.good s x

theorem State.Good.progress {s : State} (hg : s.Good) (x : Context) : (s.portOf x).progress.good s x := by
  cases x
  · exact hg.progressP
  · exact hg.progressC

theorem State.Good.midStep {s : State} (hg : s.Good) : s.MidStep :=
  ⟨hg.blockGood, hg.queued, hg.faultReason, fun x _ => hg.progress x⟩

/-- The step ends with a command in progress that the issuing context may have, or with none. -/
theorem State.MidStep.setPort_good {s : State} (hs : s.MidStep) {q : Port} (hq : q.progress.good s s.issuer) :
    (s.setPort q).Good := by
  have hprog (x : Context) : ((s.setPort q).portOf x).progress.good (s.setPort q) x := by
    refine (Progress.good_congr (s := s) (u := s.setPort q) rfl rfl rfl rfl x _).2 ?_
    by_cases hx : x = s.issuer
    · rw [hx, State.setPort, State.withPort_portOf_self]
      exact hq
    · rw [State.setPort, State.withPort_portOf_ne s hx]
      exact hs.other x hx
  obtain ⟨hv, hpp, hpl, hrb, htx, hrx, hlen⟩ := hs.block
  exact ⟨hv, hpp, hpl, hrb, htx, hrx, hlen, hs.queued, hs.faultReason, hprog .p, hprog .c⟩

theorem State.MidStep.respond_good {s : State} (hs : s.MidStep) (st : Status) (b8 : Byte) (h16 : U16)
    (data : List Byte) : (s.respond st b8 h16 data).Good :=
  hs.setPort_good (Progress.good_idle s s.issuer)

theorem State.MidStep.setProgress_good {s : State} (hs : s.MidStep) {x : Context} (hx : s.issuer = x) {g : Progress}
    (hg : g.good s x) : (s.setProgress g).Good :=
  hs.setPort_good (hx ▸ hg)

/-- The codes of 60_exceptions R307 are not 0. -/
theorem FaultReason.code_bounds (r : FaultReason) : r.code.toNat ≤ 7 ∧ r.code ≠ 0 := by cases r <;> decide

/-- A fault keeps the first reason, or records one of R307's codes (10_state R52, 60_exceptions R306). -/
theorem State.MidStep.raise_good {s : State} (hs : s.MidStep) (r : FaultReason) : (s.raise r).Good := by
  obtain ⟨hle, hiff⟩ := hs.faultReason
  obtain ⟨hcode, hne⟩ := r.code_bounds
  have hu : ({ s with
      fault := true
      faultReason := if s.fault then s.faultReason else r.code } : State).MidStep := by
    refine ⟨{ hs.block with }, hs.queued, ?_, fun x hx => (Progress.good_congr (s := s) rfl rfl rfl rfl x _).2
      (hs.other x hx)⟩
    cases hf : s.fault with
    | false => exact ⟨hcode, iff_of_false hne nofun⟩
    | true =>
      rw [hf] at hiff
      exact ⟨hle, hiff⟩
  exact hu.respond_good _ _ _ _

/-- An operation of the block that leaves the contexts, the faults and the queued transactions, and the armed transfer
where P's command runs, keeps the invariant if it keeps the block's part of it. -/
theorem State.MidStep.of_block {s u : State} (hs : s.MidStep) (hu : u.BlockGood) (hcfg : u.cfg = s.cfg)
    (hports : SamePorts s u) (hqueued : u.pull.queued = s.pull.queued)
    (hfault : u.fault = s.fault ∧ u.faultReason = s.faultReason)
    (harmed : s.issuer = .c ∨ u.tip = s.tip ∧ u.txLen = s.txLen) : u.MidStep where
  block := hu
  queued := by rw [hqueued, hcfg]; exact hs.queued
  faultReason := by rw [hfault.1, hfault.2]; exact hs.faultReason
  other := fun x hx => by
    rw [hports.issuer] at hx
    rw [hports.portOf]
    rcases harmed with hc | ⟨htip, hlen⟩
    · cases x with
      | p => exact (Progress.good_p_congr hports.1 _).2 (hs.other .p hx)
      | c => exact absurd hc.symm hx
    · exact (Progress.good_congr hcfg hports.1 htip hlen x _).2 (hs.other x hx)

/-! ### Single operations -/

theorem State.MidStep.setRb {s : State} (hs : s.MidStep) {rb : RingBuffer} (h : rb.Good s.cfg) :
    ({ s with rb := rb } : State).MidStep :=
  hs.of_block { hs.block with rb := h } rfl (SamePorts.refl s) rfl ⟨rfl, rfl⟩ (.inr ⟨rfl, rfl⟩)

theorem State.MidStep.setPush {s : State} (hs : s.MidStep) (push : PushTransport) :
    ({ s with push := push } : State).MidStep :=
  hs.of_block { hs.block with } rfl (SamePorts.refl s) rfl ⟨rfl, rfl⟩ (.inr ⟨rfl, rfl⟩)

theorem State.MidStep.setParser {s : State} (hs : s.MidStep) (sel : ParserSel) {P : Parser} (h : P.Good s.cfg) :
    (s.setParser sel P).MidStep := by
  have hu : (s.setParser sel P).BlockGood := by
    cases sel
    · exact { hs.block with pp := h }
    · exact { hs.block with pl := h }
  exact hs.of_block hu rfl (SamePorts.refl s) rfl ⟨rfl, rfl⟩ (.inr ⟨rfl, rfl⟩)

theorem State.MidStep.countDrops {s : State} (hs : s.MidStep) (n : Nat) : (s.countDrops n).MidStep :=
  hs.of_block { hs.block with } rfl (SamePorts.refl s) rfl ⟨rfl, rfl⟩ (.inr ⟨rfl, rfl⟩)

theorem State.MidStep.rejectSend_good {s : State} (hs : s.MidStep) : s.rejectSend.Good :=
  State.MidStep.respond_good (s := { s with cntSendReject := s.cntSendReject + 1 })
    (hs.of_block { hs.block with } rfl (SamePorts.refl s) rfl ⟨rfl, rfl⟩ (.inr ⟨rfl, rfl⟩)) _ _ _ _

/-- Pops into the transmit buffer (44_pull_bus_scheduler R234). -/
theorem State.MidStep.takeIn {s : State} (hs : s.MidStep) {m n : Nat} (hn : n ≤ s.rb.count s.cfg)
    (hm : m + n ≤ s.cfg.xferCap) : (s.takeIn m n).MidStep :=
  hs.of_block (hs.block.takeIn hn hm) rfl (SamePorts.refl s) rfl ⟨rfl, rfl⟩ (.inr ⟨rfl, rfl⟩)

/-- The padded length is one an armed transfer may have (10_state R47, 44_pull_bus_scheduler R235). -/
theorem State.padded_transferFits {s : State} (hv : paramsValid s.cfg = true) {m : Nat} (hm : m ≤ s.cfg.xferCap) :
    (s.padded m).transferFits := by
  obtain ⟨hmod, hpos, -, hle⟩ := transferLength_fits hv hm
  unfold State.transferFits
  rw [State.padded_txLen hv hm]
  exact ⟨hmod, hpos, hle⟩

theorem State.MidStep.padded {s : State} (hs : s.MidStep) (hc : s.issuer = .c) {m : Nat} (hm : m ≤ s.cfg.xferCap) :
    (s.padded m).MidStep := by
  obtain ⟨-, -, -, hle⟩ := transferLength_fits hs.block.cfg hm
  have hu : (s.padded m).BlockGood := { hs.block with
    tx := Memory.within_writeBytes hs.block.tx m _ (by rw [List.length_replicate]; omega)
    txLen := fun _ => State.padded_transferFits hs.block.cfg hm }
  exact hs.of_block hu rfl (SamePorts.refl s) rfl ⟨rfl, rfl⟩ (.inl hc)

/-- `PullQueue` takes a start of the transmit buffer (44_pull_bus_scheduler R237). -/
theorem State.MidStep.queuedTransfer {s : State} (hs : s.MidStep) (hc : s.issuer = .c) (hfits : s.transferFits) :
    s.queuedTransfer.MidStep where
  block := { hs.block with txLen := fun _ => hfits }
  queued := fun bytes hb => by
    rcases List.mem_append.1 hb with hb | hb
    · exact hs.queued bytes hb
    · rw [List.mem_singleton.1 hb, Memory.readPrefix_length]
      exact hfits.2.2
  faultReason := hs.faultReason
  other := fun x hx => by
    cases x with
    | p => exact (Progress.good_p_congr (s := s) (u := s.queuedTransfer) rfl _).2 (hs.other .p hx)
    | c => exact absurd hc.symm hx

/-! ### Commands of C -/

theorem flush_good {s : State} (hs : s.MidStep) (hc : s.issuer = .c) : s.flush.Good := by
  unfold State.flush
  split_ifs
  · exact (hs.setPush _).respond_good _ _ _ _
  · exact hs.setProgress_good hc trivial

theorem writeAndFlush_good {s : State} (hs : s.MidStep) (hc : s.issuer = .c) (frame : List Byte) :
    (s.writeAndFlush frame).Good := by
  unfold State.writeAndFlush
  split_ifs
  · exact flush_good (hs.setPush _) hc
  · exact hs.setProgress_good hc trivial

theorem readPush_good {k used : Nat} {armed : Bool} {events : List RouterEvent} {s t : State} (hs : s.MidStep)
    (hc : s.issuer = .c) (h : readPush k used armed events s = .ok t) : t.Good := by
  obtain ⟨r, hr, h⟩ := readPush_eq_ok.1 h
  have hu : ({ s with pp := r.parser, push := r.transport } : State).MidStep :=
    (hs.setParser .pp (hs.block.pp.of_pushPhase hr)).setPush r.transport
  rcases h with ⟨left, -, rfl⟩ | ⟨-, rfl⟩
  · exact hu.setProgress_good hc trivial
  · exact hu.respond_good _ _ _ _

theorem countPush_good {armed : Bool} {events : List RouterEvent} {s t : State} (hs : s.MidStep) (hc : s.issuer = .c)
    (h : countPush armed events s = .ok t) : t.Good := by
  rcases countPush_eq_ok.1 h with ⟨-, h⟩ | ⟨-, rfl⟩
  · exact readPush_good hs hc h
  · exact hs.setProgress_good hc trivial

theorem afterPass_good {pass : Pass} {frames : List Frame} {armed : Bool} {s t : State} (hs : s.MidStep)
    (hc : s.issuer = .c) (h : afterPass pass frames armed s = .ok t) : t.Good := by
  cases pass with
  | poll => exact Except.ok.inj h ▸ hs.respond_good _ _ _ _
  | router =>
    rcases finishRouter_eq_ok.1 h with ⟨-, rfl⟩ | ⟨-, h⟩
    · exact hs.respond_good _ _ _ _
    · exact countPush_good hs hc h

theorem queueTransfer_good {pass : Pass} {frames : List Frame} {s t : State} (hs : s.MidStep) (hc : s.issuer = .c)
    (htip : s.tip = false) (hfits : s.transferFits) (h : queueTransfer pass (afterPass pass) frames s = .ok t) :
    t.Good := by
  rcases queueTransfer_eq_ok.1 h with ⟨-, -, h⟩ | ⟨-, rfl⟩
  · exact afterPass_good (hs.queuedTransfer hc hfits) hc h
  · exact hs.setProgress_good hc ⟨htip, hfits⟩

/-- Pops, padding and queueing (44_pull_bus_scheduler R234 to R237). -/
theorem queueTransfer_of_takeIn_good {pass : Pass} {frames : List Frame} {m n : Nat} {s t : State} (hs : s.MidStep)
    (hc : s.issuer = .c) (htip : s.tip = false) (hn : n ≤ s.rb.count s.cfg) (hm : m + n ≤ s.cfg.xferCap)
    (h : queueTransfer pass (afterPass pass) frames ((s.takeIn m n).padded (m + n)) = .ok t) : t.Good :=
  queueTransfer_good ((hs.takeIn hn hm).padded hc hm) hc htip (State.padded_transferFits (s := s.takeIn m n)
    hs.block.cfg hm) h

theorem fillStep_good {pass : Pass} {frames : List Frame} {m : Nat} {s t : State} (hs : s.MidStep)
    (hc : s.issuer = .c) (h2 : s.twoContexts = true) (htip : s.tip = false) (hm : m < s.cfg.xferCap)
    (h : fillStep pass (afterPass pass) frames m s = .ok t) : t.Good := by
  by_cases hmore : 0 < s.rb.count s.cfg ∧ m + 1 < s.cfg.xferCap
  · obtain ⟨hpos, hroom⟩ := hmore
    rw [hs.block.fillStep_more hpos hroom] at h
    exact Except.ok.inj h ▸ (hs.takeIn hpos hm).setProgress_good hc ⟨h2, Nat.succ_pos m, hroom, htip⟩
  · rw [hs.block.fillStep_last hm (by omega)] at h
    exact queueTransfer_of_takeIn_good hs hc htip (Nat.min_le_right _ _) (by omega) h

theorem fillAndArm_good {pass : Pass} {frames : List Frame} {s t : State} (hs : s.MidStep) (hc : s.issuer = .c)
    (htip : s.tip = false) (h : fillAndArm pass (afterPass pass) frames s = .ok t) : t.Good := by
  cases h2 : s.twoContexts with
  | false =>
    rw [hs.block.fillAndArm_of_one h2] at h
    refine queueTransfer_of_takeIn_good (m := 0) hs hc htip (Nat.min_le_right _ _) ?_ (by rwa [Nat.zero_add])
    rw [Nat.zero_add]
    exact Nat.min_le_left _ _
  | true =>
    obtain ⟨-, -, -, -, hcap, -⟩ := paramsValid_iff.1 hs.block.cfg
    unfold fillAndArm at h
    rw [if_pos h2] at h
    exact fillStep_good hs hc h2 htip hcap h

/-- A report without completion and with nothing in flight passes the checks only where none was armed
(44_pull_bus_scheduler R231: LOST_TRANSACTION). -/
theorem tip_of_reportFault_none {tip : Bool} {txLen r : Nat} (h : reportFault tip txLen 0 r 0 = none) :
    tip = false := by
  cases tip with
  | false => rfl
  | true => simp [reportFault] at h

/-- A pass that goes on to arm finds no transfer armed after its drain (44_pull_bus_scheduler R231 to R233). -/
theorem drained_tip_of_inFlight {s : State} (h0 : s.pull.inFlight = 0) (P : Parser)
    (hn : reportFault s.tip s.txLen.toNat s.pull.completed s.pull.rxCount s.pull.inFlight = none) :
    (s.drained P).tip = false := by
  have hlost : s.pull.completed = 0 → s.tip = false := fun hc => by
    rw [h0, hc] at hn
    exact tip_of_reportFault_none hn
  rw [drained_of_not_lost hlost]

theorem schedPass_good {pass : Pass} {s t : State} (hs : s.MidStep) (hc : s.issuer = .c)
    (h : schedPass pass (afterPass pass) s = .ok t) : t.Good := by
  rcases schedPass_eq_ok.1 h with ⟨-, h⟩ | ⟨-, rfl⟩
  swap
  · exact hs.setProgress_good hc trivial
  rcases passAfterPoll_eq_ok.1 h with ⟨reason, -, rfl⟩ | ⟨hn, u, frames, hd, h⟩
  · exact State.MidStep.raise_good (s := { s with pull := s.pull.polled })
      (hs.of_block { hs.block with } rfl (SamePorts.refl s) rfl ⟨rfl, rfl⟩ (.inr ⟨rfl, rfl⟩)) reason
  · obtain ⟨P, frames', -, hblock, hd'⟩ := hs.block.drain (completion_of_reportFault_none hn)
    cases hd'.symm.trans hd
    have hu : (s.drained P).MidStep := hs.of_block hblock rfl (SamePorts.refl s) rfl ⟨rfl, rfl⟩ (.inl hc)
    rcases h with ⟨h0, h⟩ | ⟨-, h⟩
    · exact fillAndArm_good hu hc (drained_tip_of_inFlight h0 P hn) h
    · exact afterPass_good hu hc h

/-! ### SEND_QUEUE -/

theorem pushOne_midStep {b : Byte} {after k k' : Nat} {more : Bool} {s t : State} (hs : s.MidStep)
    (h : pushOne b after k s = .ok (t, k', more)) : t.MidStep ∧ SamePorts s t := by
  obtain ⟨pushed, rb, hpush, ⟨-, rfl, -⟩ | ⟨-, -, rfl, -⟩ | ⟨-, -, rfl, -⟩⟩ := pushOne_eq_ok.1 h
  · exact ⟨hs.setRb (hs.block.rb.of_rbPush hs.block.cfg hpush), SamePorts.refl s⟩
  · exact ⟨hs.countDrops _, SamePorts.refl s⟩
  · exact ⟨hs.countDrops _, SamePorts.refl s⟩

theorem enqueueAll_good {bytes : List Byte} {k : Nat} {s t : State} (hs : s.MidStep)
    (h : enqueueAll bytes k s = .ok t) : t.Good := by
  induction bytes generalizing k s with
  | nil => exact Except.ok.inj h ▸ hs.respond_good _ _ _ _
  | cons b rest ih =>
    obtain ⟨⟨u, k', more⟩, hone, h⟩ := except_bind_eq_ok.1 h
    obtain ⟨hu, -⟩ := pushOne_midStep hs hone
    cases more with
    | false => exact Except.ok.inj h ▸ hu.respond_good _ _ _ _
    | true => exact ih hu h

theorem enqueueStep_good {rest : List Byte} {k : Nat} {s t : State} (hs : s.MidStep) (hp : s.issuer = .p)
    (h2 : s.twoContexts = true) (h : enqueueStep rest k s = .ok t) : t.Good := by
  cases rest with
  | nil => exact Except.ok.inj h ▸ hs.respond_good _ _ _ _
  | cons b rest =>
    obtain ⟨⟨u, k', more⟩, hone, h⟩ := except_bind_eq_ok.1 h
    obtain ⟨hu, hports⟩ := pushOne_midStep hs hone
    dsimp only at h
    split_ifs at h with hmore
    · refine Except.ok.inj h ▸ hu.setProgress_good (hports.issuer.trans hp) ⟨hports.1.trans h2, ?_⟩
      rintro rfl
      simp at hmore
    · exact Except.ok.inj h ▸ hu.respond_good _ _ _ _

end Sys2Proof.Machine
end

section
/-! PROOF. Every step keeps the invariant of the machine: acts of the outside write `rx` only, and whatever a context does
in its turn ends in a response or in a command that the context may have in progress. -/

namespace Sys2Proof.Machine

/-! ### Commands -/

/-- Only C issues the commands that P may not (20_memory R77, notes/assumptions/10). -/
theorem issuer_eq_c_of_admits {s : State} {i : Instr} (ha : s.admits i = true) (hp : Context.p.mayIssue i = false) :
    s.issuer = .c := by
  unfold State.issuer
  split_ifs with h2
  · rw [admits_of_two h2] at ha
    cases ht : s.turn with
    | p => simp [ht, hp] at ha
    | c => rfl
  · rfl

/-- With two contexts only P issues the commands that C may not (20_memory R77). -/
theorem issuer_eq_p_of_admits {s : State} {i : Instr} (h2 : s.twoContexts = true) (ha : s.admits i = true)
    (hc : Context.c.mayIssue i = false) : s.issuer = .p := by
  rw [admits_of_two h2] at ha
  rw [State.issuer, if_pos h2]
  cases ht : s.turn with
  | p => rfl
  | c => simp [ht, hc] at ha

theorem exec_good {i : Instr} {s t : State} (hg : s.Good) (h : exec i s = .next t) : t.Good := by
  have hs : s.MidStep := hg.midStep
  obtain ⟨hv, ⟨-, rfl⟩ | ⟨ha, hrun⟩⟩ := exec_frame h
  · exact hs.raise_good _
  rcases hrun with ⟨-, st, b8, h16, data, rfl⟩ | ⟨b, pushed, rb, rfl, hpush, rfl⟩ |
    ⟨popped, rb, st, b8, rfl, hpop, rfl⟩ | ⟨sel, b, P, done, rfl, hbyte, rfl⟩ | ⟨-, rfl⟩ | ⟨id, payload, rfl, rfl⟩ |
    ⟨id, payload, rfl, h2, hrun⟩ | ⟨id, payload, rfl, -, hrun⟩ | ⟨rfl, hrun⟩ | ⟨rfl, hrun⟩
  · exact hs.respond_good _ _ _ _
  · exact (hs.setRb (hg.rb.of_rbPush hv hpush)).respond_good _ _ _ _
  · exact (hs.setRb (hg.rb.of_rbPop hv hpop)).respond_good _ _ _ _
  · exact (hs.setParser sel ((hs.block.parser sel).of_processByte hbyte)).respond_good _ _ _ _
  · exact hs.rejectSend_good
  · exact writeAndFlush_good hs (issuer_eq_c_of_admits ha rfl) _
  · exact enqueueStep_good hs (issuer_eq_p_of_admits h2 ha rfl) h2 hrun
  · exact enqueueAll_good hs hrun
  · exact schedPass_good hs (issuer_eq_c_of_admits ha rfl) hrun
  · exact schedPass_good hs (issuer_eq_c_of_admits ha rfl) hrun

/-! ### A command in progress -/

/-- What P may have in progress. -/
theorem resume_good_of_p {s t : State} (hg : s.Good) (hp : s.issuer = .p) (h : resume s = .ok t) : t.Good := by
  have hprog := hg.port_progress
  rw [hp] at hprog
  unfold resume at h
  cases hr : s.port.progress <;> rw [hr] at hprog h
  case idle => exact Except.ok.inj h ▸ hg
  case sending => exact enqueueStep_good hg.midStep hp hprog.1 h
  all_goals exact hprog.elim

/-- What C may have in progress. -/
theorem resume_good_of_c {s t : State} (hg : s.Good) (hc : s.issuer = .c) (h : resume s = .ok t) : t.Good := by
  have hs : s.MidStep := hg.midStep
  have hprog := hg.port_progress
  rw [hc] at hprog
  unfold resume at h
  cases hr : s.port.progress <;> rw [hr] at hprog h
  case idle => exact Except.ok.inj h ▸ hg
  case sending => exact hprog.elim
  case filling =>
    obtain ⟨h2, -, hm, htip⟩ := hprog
    exact fillStep_good hs hc h2 htip hm h
  case writing frame => exact Except.ok.inj h ▸ writeAndFlush_good hs hc frame
  case flushing => exact Except.ok.inj h ▸ flush_good hs hc
  case polling => exact schedPass_good hs hc h
  case queueing =>
    obtain ⟨htip, hfits⟩ := hprog
    exact queueTransfer_good hs hc htip hfits h
  case counting => exact countPush_good hs hc h
  case reading => exact readPush_good hs hc h

theorem resume_good {s t : State} (hg : s.Good) (h : resume s = .ok t) : t.Good := by
  cases hi : s.issuer with
  | p => exact resume_good_of_p hg hi h
  | c => exact resume_good_of_c hg hi h

/-! ### A turn -/

/-- A reset with no command in progress leaves a good state (10_state R55, 70_reset R330). -/
theorem State.Good.blockReset {s : State} (hg : s.Good) (hp : s.portP.progress = .idle)
    (hc : s.portC.progress = .idle) : s.blockReset.Good where
  cfg := hg.cfg
  pp := Parser.reset_good s.cfg
  pl := Parser.reset_good s.cfg
  rb := RingBuffer.reset_good s.cfg
  tx := Memory.within_nil _
  rx := Memory.within_nil _
  txLen := by simp [State.blockReset]
  queued := hg.queued
  faultReason := by simp [State.blockReset]
  progressP := hp ▸ Progress.good_idle s.blockReset .p
  progressC := hc ▸ Progress.good_idle s.blockReset .c

theorem Port.isIdle_iff {q : Port} : q.isIdle = true ↔ q.progress = .idle := beq_iff_eq

/-- A reset that waits is taken only where no context has a command in progress (70_reset R330). -/
theorem takeTurn_of_resetPending {s : State} (hi : s.port.isIdle = true) (hr : s.resetPending = true) :
    takeTurn s = .next s ∨
      s.portP.progress = .idle ∧ s.portC.progress = .idle ∧ takeTurn s = .next s.blockReset := by
  unfold takeTurn nextAction
  rw [if_neg (by simp [hi]), if_pos hr]
  split_ifs with hidle
  · rw [Bool.and_eq_true, Port.isIdle_iff, Port.isIdle_iff] at hidle
    exact .inr ⟨hidle.1, hidle.2, rfl⟩
  · exact .inl rfl

theorem State.Good.setStream {s : State} (hg : s.Good) (rest : List Byte) : (s.setStream rest).Good :=
  hg.midStep.setPort_good hg.port_progress

theorem takeTurn_good {s t : State} (hg : s.Good) (h : takeTurn s = .next t) : t.Good := by
  rcases takeTurn_cases s with ⟨-, e⟩ | ⟨hi, hr, -⟩ | ⟨-, -, ⟨-, e⟩ | ⟨why, -, e⟩ | ⟨i, rest, -, e⟩⟩
  · exact resume_good hg (outcome_eq_next.1 (e.symm.trans h))
  · rcases takeTurn_of_resetPending hi hr with e | ⟨hp, hc, e⟩
    · exact Host.Outcome.next.inj (e.symm.trans h) ▸ hg
    · exact Host.Outcome.next.inj (e.symm.trans h) ▸ hg.blockReset hp hc
  · exact Host.Outcome.next.inj (e.symm.trans h) ▸ hg
  · exact Host.Outcome.next.inj (e.symm.trans h) ▸ (hg.setStream _).midStep.respond_good _ _ _ _
  · exact exec_good (hg.setStream rest) (e.symm.trans h)

/-! ### Acts of the outside -/

/-- What the outside does keeps the invariant where it keeps `rx` in its size and leaves the queued transactions and the
commands in progress. -/
theorem State.Good.of_sameBlock {s u : State} (hg : s.Good) (hb : SameBlock s u) (hcfg : u.cfg = s.cfg)
    (h2 : u.twoContexts = s.twoContexts) (hrx : u.rx.within s.cfg.xferCap) (hq : u.pull.queued = s.pull.queued)
    (hp : u.portP.progress = s.portP.progress) (hc : u.portC.progress = s.portC.progress) : u.Good := by
  obtain ⟨hpp, hpl, hrb, htip, htx, hlen, -, -, hfault, hreason, -⟩ := hb
  have hprog (x : Context) (g : Progress) : g.good u x ↔ g.good s x := Progress.good_congr hcfg h2 htip hlen x g
  constructor
  case progressP => rw [hp, hprog]; exact hg.progressP
  case progressC => rw [hc, hprog]; exact hg.progressC
  case txLen => unfold State.transferFits; rw [hcfg, htip, hlen]; exact hg.txLen
  case rx => rwa [hcfg]
  case cfg => rw [hcfg]; exact hg.cfg
  case pp => rw [hcfg, hpp]; exact hg.pp
  case pl => rw [hcfg, hpl]; exact hg.pl
  case rb => rw [hcfg, hrb]; exact hg.rb
  case tx => rw [hcfg, htx]; exact hg.tx
  case queued => rw [hcfg, hq]; exact hg.queued
  case faultReason => rw [hfault, hreason]; exact hg.faultReason

/-- What the pull transport receives stays inside `rx` (20_memory R86). -/
theorem State.Good.receive_within {s : State} (hg : s.Good) (bytes : List Byte) :
    (s.receive bytes).rx.within s.cfg.xferCap := by
  rw [State.receive_rx]
  exact Memory.within_writeBytes hg.rx 0 _ (by rw [List.length_take]; omega)

/-- More bytes issued to a port leave what is in progress there. -/
theorem State.withPort_stream_progress (s : State) (x : Context) (bytes : List Byte) :
    (s.withPort x { s.portOf x with stream := bytes }).portP.progress = s.portP.progress ∧
      (s.withPort x { s.portOf x with stream := bytes }).portC.progress = s.portC.progress := by
  cases x <;> exact ⟨rfl, rfl⟩

theorem State.Good.applyInput {s : State} (hg : s.Good) (i : Input) : (s.applyInput i).Good := by
  have hb := applyInput_sameBlock s i
  cases i with
  | issue x bytes =>
    obtain ⟨hP, hC⟩ := s.withPort_stream_progress (s.portContext x)
      ((s.portOf (s.portContext x)).stream ++ bytes)
    exact hg.of_sameBlock hb rfl rfl hg.rx rfl hP hC
  | callReturns call returns =>
    cases call <;> exact hg.of_sameBlock hb rfl rfl hg.rx rfl rfl rfl
  | masterClock bytes =>
    show (s.masterClock bytes).Good
    by_cases h : s.pull.inFlight = 0
    · rwa [State.masterClock_of_none h]
    · change SameBlock s (s.masterClock bytes) at hb
      rw [State.masterClock_of_inFlight h bytes rfl rfl] at hb ⊢
      exact hg.of_sameBlock hb rfl rfl (hg.receive_within _) rfl rfl rfl
  | pullReport c r f bytes => exact hg.of_sameBlock hb rfl rfl (hg.receive_within bytes) rfl rfl rfl
  | _ => exact hg.of_sameBlock hb rfl rfl hg.rx rfl rfl rfl

/-- The invariant does not speak of what the outside does next. -/
theorem State.Good.setInputs {s : State} (hg : s.Good) (later : List Input) : ({ s with inputs := later } : State).Good :=
  ⟨hg.cfg, hg.pp, hg.pl, hg.rb, hg.tx, hg.rx, hg.txLen, hg.queued, hg.faultReason, hg.progressP, hg.progressC⟩

/-- Settles O11: a step is a turn or an act of the outside, and each keeps the invariant. -/
theorem everyStepKeepsTheInvariant : Obligations.EveryStepKeepsTheInvariant := by
  intro s t hg h
  rcases step_cases hg.cfg with ⟨-, e⟩ | ⟨x, rest, hi, e⟩ | ⟨i, rest, -, -, e⟩
  · exact takeTurn_good hg (e.symm.trans h)
  · exact takeTurn_good (hg.of_turnedTo (.inr ⟨x, rest, hi, rfl⟩)) (e.symm.trans h)
  · exact Host.Outcome.next.inj (e.symm.trans h) ▸ (hg.setInputs rest).applyInput i

end Sys2Proof.Machine
end

section
/-! SUPPORT. The frame parser byte by byte (42_frame_parser R180 to R193): what one byte does in each state, how many bytes
a frame still takes, and what the bytes of a whole frame do. -/

namespace Sys2Proof.Machine

/-! ### One byte, state by state -/

theorem processByte_of_seek1 {cfg : Params} {P : Parser} (h : P.ps = .seek1) (b : Byte) :
    P.processByte cfg b = .ok (P.seek1Byte b, false) := by
  unfold Parser.processByte
  rw [h]

theorem processByte_of_seek2 {cfg : Params} {P : Parser} (h : P.ps = .seek2) (b : Byte) :
    P.processByte cfg b = .ok (P.seek2Byte cfg b, false) := by
  unfold Parser.processByte
  rw [h]

theorem processByte_of_lenLo {cfg : Params} {P : Parser} (h : P.ps = .lenLo) (b : Byte) :
    P.processByte cfg b = .ok (P.lenLoByte b, false) := by
  unfold Parser.processByte
  rw [h]

theorem processByte_of_lenHi {cfg : Params} {P : Parser} (h : P.ps = .lenHi) (b : Byte) :
    P.processByte cfg b = .ok (P.lenHiByte cfg b, false) := by
  unfold Parser.processByte
  rw [h]

theorem processByte_of_id {cfg : Params} {P : Parser} (h : P.ps = .id) (b : Byte) :
    P.processByte cfg b = .ok (P.idByte b, false) := by
  unfold Parser.processByte
  rw [h]

theorem processByte_of_payload {cfg : Params} {P Q : Parser} (h : P.ps = .payload) {b : Byte}
    (hQ : P.payloadByte cfg b = .ok Q) : P.processByte cfg b = .ok (Q, false) := by
  unfold Parser.processByte
  rw [h]
  exact except_bind_eq_ok.2 ⟨Q, hQ, rfl⟩

theorem processByte_of_crcLo {cfg : Params} {P : Parser} (h : P.ps = .crcLo) (b : Byte) :
    P.processByte cfg b = .ok (P.crcLoByte b, false) := by
  unfold Parser.processByte
  rw [h]

theorem processByte_of_crcHi {cfg : Params} {P : Parser} (h : P.ps = .crcHi) (b : Byte) :
    P.processByte cfg b = P.crcHiByte cfg b := by
  unfold Parser.processByte
  rw [h]

/-! ### The marker and length states -/

theorem Parser.seek1Byte_eq (P : Parser) (b : Byte) :
    P.seek1Byte b = { P with ps := if b = stx1 then .seek2 else .seek1 } := by
  unfold Parser.seek1Byte
  split_ifs <;> rfl

theorem Parser.seek2Byte_eq (cfg : Params) (P : Parser) (b : Byte) : P.seek2Byte cfg b = { P with ps :=
    if b = stx2 then .lenLo else if b = stx1 ∧ cfg.seek2OnA5 = .hold then .seek2 else .seek1 } := by
  unfold Parser.seek2Byte
  split_ifs <;> rfl

/-- The second length byte completes the little-endian LEN that the first one began (42_frame_parser R184, R185). -/
theorem Parser.lenHiByte_eq {P : Parser} {lo : Byte} (hlo : P.len = lo.setWidth 16) (cfg : Params) (b : Byte) :
    P.lenHiByte cfg b = { P with
      len := u16Of lo b
      ps := if 1 ≤ (u16Of lo b).toNat ∧ (u16Of lo b).toNat ≤ cfg.maxPayload + 1 then .id else .seek1 } := by
  have hlen : P.len ||| (b.setWidth 16 <<< 8) = u16Of lo b := by rw [hlo]; rfl
  have hzero : u16Of lo b = 0 ↔ (u16Of lo b).toNat = 0 := BitVec.toNat_inj.symm
  unfold Parser.lenHiByte
  dsimp only
  rw [hlen]
  by_cases h : 1 ≤ (u16Of lo b).toNat ∧ (u16Of lo b).toNat ≤ cfg.maxPayload + 1
  · rw [if_pos h, if_neg (by rw [hzero]; omega)]
  · rw [if_neg h, if_pos (by rw [hzero]; omega)]

/-- A LEN below 256 is one byte. -/
theorem eq_setWidth_lo8 {len : U16} (h : len.toNat < 256) : len = (lo8 len).setWidth 16 := by
  refine BitVec.eq_of_toNat_eq ?_
  simp only [lo8, BitVec.toNat_setWidth, BitVec.extractLsb'_toNat, Nat.shiftRight_zero]
  omega

/-! ### The payload state -/

theorem toNat_succ_of_lt {i n : U16} (h : i.toNat + 1 < n.toNat) : (i + 1).toNat = i.toNat + 1 := by
  rw [BitVec.toNat_add, show (1 : U16).toNat = 1 from rfl, Nat.mod_eq_of_lt (by omega)]

/-- A payload byte inside the length, in numbers (42_frame_parser R187). -/
theorem payloadByte_of_lt {cfg : Params} {P : Parser} (hidx : P.idx.toNat + 1 < P.len.toNat)
    (hmax : P.len.toNat ≤ cfg.maxPayload + 1) (b : Byte) : P.payloadByte cfg b = .ok { P with
      acc := Memory.write P.acc P.idx.toNat b
      idx := P.idx + 1
      ps := if P.idx.toNat + 2 = P.len.toNat then .crcLo else .payload } := by
  have hlast : P.idx + 1 = P.len - 1 ↔ P.idx.toNat + 2 = P.len.toNat := by
    rw [← BitVec.toNat_inj, toNat_succ_of_lt hidx, toNat_pred (by omega)]
    omega
  refine payloadByte_eq_ok.2 ⟨by omega, ?_⟩
  simp only [hlast]

/-! ### The check states -/

/-- The parser after a frame that passed its check (42_frame_parser R189). -/
def Parser.published (P : Parser) : Parser :=
  { P with
    ps := .seek1
    frmId := P.id
    frmLen := P.len - 1
    frmPayload := Memory.writeBytes P.frmPayload 0 (Memory.readPrefix P.acc (P.len.toNat - 1))
    frmValid := true }

/-- The two check bytes are the checksum of the id and the accumulated bytes (42_frame_parser R189). -/
def Parser.checks (cfg : Params) (P : Parser) (b : Byte) : Prop :=
  u16Of P.crclo b = crc16 cfg.crcProfile P.id (Memory.readPrefix P.acc (P.len.toNat - 1))

theorem Parser.checks_iff {cfg : Params} {P : Parser} {b : Byte} : P.checks cfg b ↔
    b.toNat * 256 + P.crclo.toNat =
      (crc16 cfg.crcProfile P.id (Memory.readPrefix P.acc (P.len.toNat - 1))).toNat := by
  rw [Parser.checks, ← BitVec.toNat_inj, u16Of_toNat, Nat.add_comm, Nat.mul_comm]

/-- What CRC_HI can answer, for a length that passed the length check (42_frame_parser R189). -/
theorem processByte_crcHi_eq_ok {cfg : Params} {P Q : Parser} {b : Byte} {done : Bool} (hps : P.ps = .crcHi)
    (hpos : 1 ≤ P.len.toNat) (hmax : P.len.toNat ≤ cfg.maxPayload + 1) : P.processByte cfg b = .ok (Q, done) ↔
      P.checks cfg b ∧ done = true ∧ Q = P.published ∨
      ¬ P.checks cfg b ∧ done = false ∧ Q = { P with ps := .seek1 } := by
  have hle : P.len.toNat - 1 ≤ cfg.maxPayload := by omega
  unfold Parser.checks Parser.published
  rw [processByte_of_crcHi hps, crcHiByte_eq_ok, toNat_pred hpos]
  split_ifs with hc <;> simp [hc, hle]

/-! ### How many bytes a frame still takes -/

/-- The bytes from here to the end of the frame in progress, 0 where no length is accepted yet
(42_frame_parser R193). -/
def Parser.bytesToGo (P : Parser) : Nat :=
  match P.ps with
  | .seek1 => 0
  | .seek2 => 0
  | .lenLo => 0
  | .lenHi => 0
  | .id => P.len.toNat + 2
  | .payload => P.len.toNat - 1 - P.idx.toNat + 2
  | .crcLo => 2
  | .crcHi => 1

theorem Parser.bytesToGo_of_id {P : Parser} (h : P.ps = .id) : P.bytesToGo = P.len.toNat + 2 := by
  simp only [Parser.bytesToGo, h]

theorem Parser.bytesToGo_of_payload {P : Parser} (h : P.ps = .payload) :
    P.bytesToGo = P.len.toNat - 1 - P.idx.toNat + 2 := by
  simp only [Parser.bytesToGo, h]

theorem Parser.bytesToGo_of_crcLo {P : Parser} (h : P.ps = .crcLo) : P.bytesToGo = 2 := by
  simp only [Parser.bytesToGo, h]

theorem Parser.bytesToGo_of_crcHi {P : Parser} (h : P.ps = .crcHi) : P.bytesToGo = 1 := by
  simp only [Parser.bytesToGo, h]

/-- Every byte of a frame brings its end one byte nearer, and the last one leads to SEEK1. -/
theorem Parser.Good.bytesToGo_processByte {cfg : Params} {P Q : Parser} {b : Byte} {done : Bool} (hg : P.Good cfg)
    (hpos : 0 < P.bytesToGo) (h : P.processByte cfg b = .ok (Q, done)) :
    P.bytesToGo = Q.bytesToGo + 1 ∧ (Q.bytesToGo = 0 → Q.ps = .seek1) := by
  cases hps : P.ps with
  | id =>
    cases (processByte_of_id hps b).symm.trans h
    have hlen := (hg.len (.inl hps)).1
    rw [Parser.bytesToGo_of_id hps]
    by_cases h1 : P.len = 1
    · rw [Parser.bytesToGo_of_crcLo (P := P.idByte b) (if_pos h1), h1]
      exact ⟨rfl, nofun⟩
    · rw [Parser.bytesToGo_of_payload (P := P.idByte b) (if_neg h1)]
      refine ⟨?_, nofun⟩
      show P.len.toNat + 2 = P.len.toNat - 1 - 0 + 2 + 1
      omega
  | payload =>
    have hidx := hg.idxPayload hps
    have hbyte := payloadByte_of_lt hidx (hg.len (.inr (.inl hps))).2 b
    cases (processByte_of_payload hps hbyte).symm.trans h
    rw [Parser.bytesToGo_of_payload hps]
    by_cases hlast : P.idx.toNat + 2 = P.len.toNat
    · rw [Parser.bytesToGo_of_crcLo (if_pos hlast)]
      exact ⟨by omega, nofun⟩
    · rw [Parser.bytesToGo_of_payload (if_neg hlast), toNat_succ_of_lt hidx]
      refine ⟨?_, nofun⟩
      dsimp only
      omega
  | crcLo =>
    cases (processByte_of_crcLo hps b).symm.trans h
    rw [Parser.bytesToGo_of_crcLo hps, Parser.bytesToGo_of_crcHi (P := P.crcLoByte b) rfl]
    exact ⟨rfl, nofun⟩
  | crcHi =>
    obtain ⟨hlen, hmax⟩ := hg.len (.inr (.inr (.inr hps)))
    rw [Parser.bytesToGo_of_crcHi hps]
    rcases (processByte_crcHi_eq_ok hps hlen hmax).1 h with ⟨-, -, rfl⟩ | ⟨-, -, rfl⟩ <;>
      exact ⟨rfl, fun _ => rfl⟩
  | _ => simp [Parser.bytesToGo, hps] at hpos

/-- Inside a frame the parser is in SEEK1 again exactly when the frame's bytes are all taken. -/
theorem Parser.Good.feed_seek1_iff {cfg : Params} {P : Parser} (hg : P.Good cfg) (hpos : 0 < P.bytesToGo)
    {bytes : List Byte} (hle : bytes.length ≤ P.bytesToGo) :
    ∃ Q frames, P.feed cfg bytes = .ok (Q, frames) ∧ (Q.ps = .seek1 ↔ bytes.length = P.bytesToGo) := by
  obtain ⟨R, frames, hfeed, -⟩ := hg.feed bytes
  refine ⟨R, frames, hfeed, ?_⟩
  induction bytes generalizing P frames with
  | nil =>
    cases hfeed
    refine ⟨fun hps => ?_, fun h => absurd h.symm hpos.ne'⟩
    simp [Parser.bytesToGo, hps] at hpos
  | cons b t ih =>
    obtain ⟨Q, done, hbyte, hrest⟩ := feed_cons_eq_ok.1 hfeed
    obtain ⟨hstep, hend⟩ := hg.bytesToGo_processByte hpos hbyte
    obtain ⟨fs, hfs⟩ : ∃ fs, Q.feed cfg t = .ok (R, fs) := by
      rcases hrest with ⟨-, h⟩ | ⟨-, f, fs, -, h, -⟩
      · exact ⟨_, h⟩
      · exact ⟨_, h⟩
    rw [List.length_cons] at hle ⊢
    rcases Nat.eq_zero_or_pos Q.bytesToGo with h0 | hQ
    · obtain rfl : t = [] := List.length_eq_zero_iff.1 (by omega)
      cases hfs
      exact iff_of_true (hend h0) (by rw [hstep, h0]; rfl)
    · rw [ih (hg.of_processByte hbyte) hQ (by omega) fs hfs]
      omega

/-! ### Byte sequences -/

theorem feed_cons_of_silent {cfg : Params} {P Q : Parser} {b : Byte} (h : P.processByte cfg b = .ok (Q, false))
    (t : List Byte) : P.feed cfg (b :: t) = Q.feed cfg t := by
  rw [Parser.feed, h]
  rfl

theorem feed_append {cfg : Params} {P Q R : Parser} {xs ys : List Byte} {fs gs : List Frame}
    (h : P.feed cfg xs = .ok (Q, fs)) (h' : Q.feed cfg ys = .ok (R, gs)) :
    P.feed cfg (xs ++ ys) = .ok (R, fs ++ gs) := by
  induction xs generalizing P fs with
  | nil =>
    cases h
    exact h'
  | cons b t ih =>
    obtain ⟨S, done, hbyte, hrest⟩ := feed_cons_eq_ok.1 h
    refine feed_cons_eq_ok.2 ⟨S, done, hbyte, ?_⟩
    rcases hrest with ⟨hdone, ht⟩ | ⟨hdone, f, fs', hf, ht, rfl⟩
    · exact .inl ⟨hdone, ih ht⟩
    · exact .inr ⟨hdone, f, fs' ++ gs, hf, ih ht, rfl⟩

/-! ### The bytes of a frame -/

/-- The markers and an accepted length lead from SEEK1 to ID (42_frame_parser R182 to R185). -/
theorem feed_header {cfg : Params} {P : Parser} (hps : P.ps = .seek1) {l0 l1 : Byte}
    (hpos : 1 ≤ (u16Of l0 l1).toNat) (hmax : (u16Of l0 l1).toNat ≤ cfg.maxPayload + 1) :
    P.feed cfg [stx1, stx2, l0, l1] = .ok ({ P with len := u16Of l0 l1, ps := .id }, []) := by
  rw [feed_cons_of_silent (processByte_of_seek1 hps stx1), Parser.seek1Byte_eq, if_pos rfl,
    feed_cons_of_silent (processByte_of_seek2 rfl stx2), Parser.seek2Byte_eq, if_pos rfl,
    feed_cons_of_silent (processByte_of_lenLo rfl l0), feed_cons_of_silent (processByte_of_lenHi rfl l1),
    Parser.lenHiByte_eq (P := Parser.lenLoByte _ l0) rfl, if_pos ⟨hpos, hmax⟩]
  rfl

/-- The payload bytes are accumulated in order and lead to CRC_LO (42_frame_parser R187). -/
theorem feed_payload {cfg : Params} {P : Parser} {payload : List Byte} (hps : P.ps = .payload) (hne : payload ≠ [])
    (hlen : P.idx.toNat + payload.length + 1 = P.len.toNat) (hmax : P.len.toNat ≤ cfg.maxPayload + 1) :
    P.feed cfg payload = .ok ({ P with
      acc := Memory.writeBytes P.acc P.idx.toNat payload
      idx := P.len - 1
      ps := .crcLo }, []) := by
  induction payload generalizing P with
  | nil => exact absurd rfl hne
  | cons b t ih =>
    rw [List.length_cons] at hlen
    have hidx : P.idx.toNat + 1 < P.len.toNat := by omega
    have hnext := toNat_succ_of_lt hidx
    rw [feed_cons_of_silent (processByte_of_payload hps (payloadByte_of_lt hidx hmax b))]
    by_cases ht : t = []
    · subst ht
      have hlast : P.idx.toNat + 2 = P.len.toNat := hlen
      have hpred : P.idx + 1 = P.len - 1 := by
        rw [← BitVec.toNat_inj, hnext, toNat_pred (by omega)]
        omega
      rw [if_pos hlast, hpred]
      rfl
    · have hmore : P.idx.toNat + 2 ≠ P.len.toNat := by
        have := List.length_pos_of_ne_nil ht
        omega
      rw [if_neg hmore]
      refine (ih (P := { P with
        acc := Memory.write P.acc P.idx.toNat b, idx := P.idx + 1, ps := .payload }) rfl ht ?_ hmax).trans ?_
      · show (P.idx + 1).toNat + t.length + 1 = P.len.toNat
        omega
      · dsimp only
        rw [hnext]
        rfl

/-- The parser at the last byte of a frame that began in SEEK1. -/
def Parser.atCheck (P : Parser) (len : U16) (id : Byte) (payload : List Byte) (crclo : Byte) : Parser :=
  { P with
    ps := .crcHi
    len := len
    id := id
    idx := len - 1
    acc := Memory.writeBytes P.acc 0 payload
    crclo := crclo }

/-- All bytes of a frame but the last, whatever its check bytes are (42_frame_parser R182 to R188). -/
theorem feed_upToCheck {cfg : Params} {P : Parser} (hps : P.ps = .seek1) {l0 l1 : Byte} {payload : List Byte}
    (hpos : 1 ≤ payload.length) (hmax : payload.length ≤ cfg.maxPayload)
    (hlen : (u16Of l0 l1).toNat = payload.length + 1) (id c0 : Byte) :
    P.feed cfg ([stx1, stx2, l0, l1] ++ (id :: (payload ++ [c0]))) =
      .ok (P.atCheck (u16Of l0 l1) id payload c0, []) := by
  have hheader := feed_header (cfg := cfg) hps (l0 := l0) (l1 := l1) (by omega) (by omega)
  refine feed_append (gs := []) hheader ?_
  generalize u16Of l0 l1 = len at hlen ⊢
  have hne : len ≠ 1 := by
    rw [ne_eq, ← BitVec.toNat_inj, hlen, show (1 : U16).toNat = 1 from rfl]
    omega
  rw [feed_cons_of_silent (processByte_of_id rfl id)]
  refine feed_append (gs := []) (feed_payload (if_neg hne) (List.ne_nil_of_length_pos hpos) ?_ ?_) ?_
  · show 0 + payload.length + 1 = len.toNat
    omega
  · show len.toNat ≤ cfg.maxPayload + 1
    omega
  · exact feed_cons_of_silent (processByte_of_crcLo rfl c0) []

/-- At the last byte the check is of this frame's id and payload. -/
theorem Parser.atCheck_checks_iff {cfg : Params} {P : Parser} (hwf : P.acc.wf) {len : U16} {payload : List Byte}
    (hlen : len.toNat = payload.length + 1) {id c0 c1 : Byte} :
    (P.atCheck len id payload c0).checks cfg c1 ↔ u16Of c0 c1 = crc16 cfg.crcProfile id payload := by
  have hacc : Memory.readPrefix (P.atCheck len id payload c0).acc (len.toNat - 1) = payload := by
    rw [hlen, Nat.add_sub_cancel]
    exact Memory.readPrefix_writeBytes hwf payload
  show u16Of c0 c1 = crc16 cfg.crcProfile id (Memory.readPrefix _ (len.toNat - 1)) ↔ _
  rw [hacc]

/-- A frame whose check bytes are not its checksum completes nothing (42_frame_parser R189). -/
theorem feed_of_wrong_checksum {cfg : Params} {P : Parser} (hwf : P.acc.wf) (hps : P.ps = .seek1) {l0 l1 : Byte}
    {payload : List Byte} (hpos : 1 ≤ payload.length) (hmax : payload.length ≤ cfg.maxPayload)
    (hlen : (u16Of l0 l1).toNat = payload.length + 1) {id c0 c1 : Byte}
    (hc : u16Of c0 c1 ≠ crc16 cfg.crcProfile id payload) :
    P.feed cfg ([stx1, stx2, l0, l1] ++ (id :: (payload ++ [c0])) ++ [c1]) =
      .ok ({ P.atCheck (u16Of l0 l1) id payload c0 with ps := .seek1 }, []) := by
  refine feed_append (gs := []) (feed_upToCheck hps hpos hmax hlen id c0) ?_
  refine feed_cons_of_silent ((processByte_crcHi_eq_ok rfl ?_ ?_).2 (.inr ⟨?_, rfl, rfl⟩)) []
  · show 1 ≤ (u16Of l0 l1).toNat
    omega
  · show (u16Of l0 l1).toNat ≤ cfg.maxPayload + 1
    omega
  · rwa [Parser.atCheck_checks_iff hwf hlen]

end Sys2Proof.Machine
end

section
/-! PROOF. The frame parser (42_frame_parser): its eight states, its invariant, the byte count of a frame, the two commands
that read it, and the rejection of a damaged frame. -/

namespace Sys2Proof.Machine

/-! ### The states -/

/-- Settles O24: each marker state is its own byte rule. -/
theorem parserMarkerStates : Obligations.ParserMarkerStates := by
  refine fun cfg P b => ⟨fun hps => ?_, fun hps => ?_⟩
  · rw [processByte_of_seek1 hps, Parser.seek1Byte_eq]
  · rw [processByte_of_seek2 hps, Parser.seek2Byte_eq]

/-- Settles O25: the two bytes are the halves of LEN, and the check is on their number. -/
theorem parserLengthStates : Obligations.ParserLengthStates := by
  refine fun cfg P b => ⟨fun hps => ⟨_, processByte_of_lenLo hps b, rfl, ?_, rfl⟩, fun hps hlen => ?_⟩
  · show (b.setWidth 16).toNat = b.toNat
    rw [BitVec.toNat_setWidth, Nat.mod_eq_of_lt (by omega)]
  · have hlo := eq_setWidth_lo8 hlen
    have hnum : (lo8 P.len).toNat = P.len.toNat := by
      conv_rhs => rw [hlo, BitVec.toNat_setWidth, Nat.mod_eq_of_lt (by omega)]
    refine ⟨_, processByte_of_lenHi hps b, ?_⟩
    rw [Parser.lenHiByte_eq hlo]
    refine ⟨?_, rfl, rfl⟩
    rw [u16Of_toNat, hnum]

/-- Settles O26: the id state is its own byte rule; the invariant keeps a payload byte inside LEN, and a read of `acc`
after the write tells the bytes. -/
theorem parserIdAndPayloadStates : Obligations.ParserIdAndPayloadStates := by
  refine fun cfg P b _ hg => ⟨fun hps => processByte_of_id hps b, fun hps => ?_⟩
  have hidx := hg.idxPayload hps
  have hbyte := payloadByte_of_lt hidx (hg.len (.inr (.inl hps))).2 b
  refine ⟨_, processByte_of_payload hps hbyte, toNat_succ_of_lt hidx, rfl, ?_, fun k hk => ?_, rfl⟩
  · rw [Memory.read_write hg.acc.1, if_pos rfl]
  · rw [Memory.read_write hg.acc.1, if_neg hk]

/-- Settles O27: of the two outcomes of CRC_HI the check decides. -/
theorem parserCheckStates : Obligations.ParserCheckStates := by
  refine fun cfg P b _ hg => ⟨fun hps => processByte_of_crcLo hps b, fun hps => ?_⟩
  obtain ⟨hpos, hmax⟩ := hg.len (.inr (.inr (.inr hps)))
  have hbyte {Q : Parser} {done : Bool} := processByte_crcHi_eq_ok (Q := Q) (b := b) (done := done) hps hpos hmax
  rw [ne_eq, ← Parser.checks_iff]
  refine ⟨fun hc => ⟨_, hbyte.2 (.inl ⟨hc, rfl, rfl⟩), rfl, rfl, rfl, toNat_pred hpos, ?_, rfl⟩,
    fun hc => hbyte.2 (.inr ⟨hc, rfl, rfl⟩)⟩
  have hread := Memory.readPrefix_writeBytes hg.frmPayload.1 (Memory.readPrefix P.acc (P.len.toNat - 1))
  rwa [Memory.readPrefix_length] at hread

/-! ### What every byte keeps -/

/-- Settles O30: state by state, only CRC_HI can report and publish, and only PAYLOAD writes `acc`. -/
theorem onlyCompletionPublishesAndOnlyPayloadAccumulates :
    Obligations.OnlyCompletionPublishesAndOnlyPayloadAccumulates := by
  intro cfg P Q b done h
  rcases processByte_cases h with ⟨-, rfl, rfl⟩ | ⟨-, rfl, rfl⟩ | ⟨-, rfl, rfl⟩ | ⟨-, rfl, rfl⟩ | ⟨-, rfl, rfl⟩ |
    ⟨hps, rfl, hQ⟩ | ⟨-, rfl, rfl⟩ | ⟨hps, hQ⟩
  · rw [Parser.seek1Byte_eq]
    exact ⟨nofun, fun _ => ⟨rfl, rfl, rfl, rfl⟩, fun _ => rfl⟩
  · rw [Parser.seek2Byte_eq]
    exact ⟨nofun, fun _ => ⟨rfl, rfl, rfl, rfl⟩, fun _ => rfl⟩
  · exact ⟨nofun, fun _ => ⟨rfl, rfl, rfl, rfl⟩, fun _ => rfl⟩
  · unfold Parser.lenHiByte
    dsimp only
    split_ifs <;> exact ⟨nofun, fun _ => ⟨rfl, rfl, rfl, rfl⟩, fun _ => rfl⟩
  · exact ⟨nofun, fun _ => ⟨rfl, rfl, rfl, rfl⟩, fun _ => rfl⟩
  · obtain ⟨-, rfl⟩ := payloadByte_eq_ok.1 hQ
    exact ⟨nofun, fun _ => ⟨rfl, rfl, rfl, rfl⟩, fun hne => absurd hps hne⟩
  · exact ⟨nofun, fun _ => ⟨rfl, rfl, rfl, rfl⟩, fun _ => rfl⟩
  · obtain ⟨-, hQ⟩ := crcHiByte_eq_ok.1 hQ
    split_ifs at hQ
    · obtain ⟨rfl, rfl⟩ := hQ
      exact ⟨fun _ => ⟨hps, rfl, rfl⟩, nofun, fun _ => rfl⟩
    · obtain ⟨rfl, rfl⟩ := hQ
      exact ⟨nofun, fun _ => ⟨rfl, rfl, rfl, rfl⟩, fun _ => rfl⟩

/-- Settles O31: `Parser.Good.processByte`, which goes state by state. -/
theorem everyByteKeepsTheParserInvariant : Obligations.EveryByteKeepsTheParserInvariant := by
  intro cfg P b _ hg
  obtain ⟨Q, done, h, hgood, -⟩ := hg.processByte b
  exact ⟨Q, done, h, hgood⟩

/-- Settles O32: in ID the bytes to go are LEN + 2. -/
theorem acceptedLengthFixesTheByteCount : Obligations.AcceptedLengthFixesTheByteCount := by
  intro cfg P bytes _ hg hps hle
  rw [← Parser.bytesToGo_of_id hps] at hle ⊢
  exact hg.feed_seek1_iff (by rw [Parser.bytesToGo_of_id hps]; omega) hle

/-! ### The commands -/

/-- PARSE_BYTE answers what the selected parser says of the byte (42_frame_parser R195). -/
theorem exec_parseByte_answers {s : State} {sel : ParserSel} {b : Byte} (hs : s.accepts (.parseByte sel b))
    (hg : (s.parser sel).Good s.cfg) : ∃ Q done, (s.parser sel).processByte s.cfg b = .ok (Q, done) ∧
      exec (.parseByte sel b) s = .next ((s.setParser sel Q).respond (if done then .ok else .no) 0 0 []) := by
  obtain ⟨Q, done, h, -⟩ := hg.processByte b
  have hstatus : Status.ofBool done = if done then .ok else .no := by cases done <;> rfl
  refine ⟨Q, done, h, (guarded_of_accepted hs.1 hs.2).trans (outcome_eq_next.2 (except_bind_eq_ok.2 ⟨_, h, ?_⟩))⟩
  rw [← hstatus]

/-- Settles O28: `exec_parseByte_answers` for each of the two parsers. -/
theorem parseByteAnswers : Obligations.ParseByteAnswers := fun _ _ =>
  ⟨fun hs hg => exec_parseByte_answers (sel := .pp) hs hg, fun hs hg => exec_parseByte_answers (sel := .pl) hs hg⟩

/-- Settles O29: the invariant keeps a published frame inside its array, so it can be read. -/
theorem getFrameAnswers : Obligations.GetFrameAnswers := by
  intro s sel hs hg
  refine ⟨fun hnone => (guarded_of_accepted hs.1 hs.2).trans ?_,
    fun hsome => (guarded_of_accepted hs.1 hs.2).trans ?_⟩
  · rw [hnone]
    rfl
  · rw [if_pos hsome]
    exact outcome_eq_next.2 (except_bind_eq_ok.2 ⟨_, frame_eq_ok.2 ⟨hg.frmLen hsome, rfl⟩, rfl⟩)

/-! ### A damaged frame -/

/-- A byte sequence with one byte changed. -/
theorem set_eq_append_cons {bytes : List Byte} {i : Nat} (h : i < bytes.length) (x : Byte) :
    bytes = bytes.take i ++ bytes[i] :: bytes.drop (i + 1) ∧
      bytes.set i x = bytes.take i ++ x :: bytes.drop (i + 1) := by
  refine ⟨?_, ?_⟩
  · simp
  · rw [List.set_eq_take_append_cons_drop, if_pos h]

/-- One changed byte among the id, the payload and the checksum leaves a frame of the same length with a wrong checksum
(40_checksum R140 to R142, notes/assumptions/20). -/
theorem checked_set {prof : CrcProfile} {id x : Byte} {payload : List Byte} {c0 c1 : Byte} {k : Nat}
    (hc : u16Of c0 c1 = crc16 prof id payload) (hk : k < payload.length + 3)
    (hne : (id :: (payload ++ [c0, c1]))[k]? ≠ some x) :
    ∃ id' payload' d0 d1, (id :: (payload ++ [c0, c1])).set k x = id' :: (payload' ++ [d0, d1]) ∧
      payload'.length = payload.length ∧ u16Of d0 d1 ≠ crc16 prof id' payload' := by
  obtain ⟨hid, hbyte⟩ := changedByteChangesTheChecksum prof
  cases k with
  | zero =>
    refine ⟨x, payload, c0, c1, rfl, rfl, ?_⟩
    rw [hc]
    exact hid id x payload (by simpa using hne)
  | succ i =>
    rw [List.getElem?_cons_succ] at hne
    rw [List.set_cons_succ]
    by_cases hi : i < payload.length
    · refine ⟨id, payload.set i x, c0, c1, by rw [List.set_append_left _ _ hi], List.length_set, ?_⟩
      obtain ⟨hold, hnew⟩ := set_eq_append_cons hi x
      rw [List.getElem?_append_left hi, List.getElem?_eq_getElem hi, ne_eq, Option.some.injEq] at hne
      rw [hc, hnew, congrArg (crc16 prof id) hold]
      exact hbyte id _ x _ _ hne
    · obtain ⟨j, rfl⟩ : ∃ j, i = payload.length + j := Nat.exists_eq_add_of_le (not_lt.1 hi)
      rw [List.getElem?_append_right (by omega), Nat.add_sub_cancel_left] at hne
      rw [List.set_append_right _ _ (by omega), Nat.add_sub_cancel_left]
      have hj : j = 0 ∨ j = 1 := by omega
      rcases hj with rfl | rfl
      · exact ⟨id, payload, x, c1, rfl, rfl, fun h => hne (by simp [(u16Of_inj (hc.trans h.symm)).1])⟩
      · exact ⟨id, payload, c0, x, rfl, rfl, fun h => hne (by simp [(u16Of_inj (hc.trans h.symm)).2])⟩

/-- Settles O35: the damaged frame is one of the same length with a wrong checksum, and such a frame is rejected. -/
theorem damagedFrameIsRejected : Obligations.DamagedFrameIsRejected := by
  intro cfg P id x payload j hv hg hps hpos hmax hj hlt hne
  obtain ⟨k, rfl⟩ := Nat.exists_eq_add_of_le' hj
  generalize hlen : (BitVec.ofNat 16 (payload.length + 1) : U16) = len
  generalize hc : crc16 cfg.crcProfile id payload = c
  have hframe : encodeFrame cfg.crcProfile id payload =
      stx1 :: stx2 :: lo8 len :: hi8 len :: (id :: (payload ++ [lo8 c, hi8 c])) := by
    rw [← hlen, ← hc]
    rfl
  have hnum : (u16Of (lo8 len) (hi8 len)).toNat = payload.length + 1 := by
    obtain ⟨-, hle, -⟩ := paramsValid_iff.1 hv
    rw [u16Of_lo8_hi8, ← hlen]
    exact Nat.mod_eq_of_lt (by omega)
  rw [hframe] at hne ⊢
  obtain ⟨id', payload', d0, d1, hset, hlen', hwrong⟩ := checked_set (prof := cfg.crcProfile)
    ((u16Of_lo8_hi8 c).trans hc.symm) (by omega) hne
  have hfeed := feed_of_wrong_checksum hg.acc.1 hps (by omega) (by omega) (hlen' ▸ hnum) hwrong
  refine ⟨_, Eq.trans ?_ hfeed, rfl, rfl, rfl, rfl, rfl⟩
  rw [List.set_cons_succ, List.set_cons_succ, List.set_cons_succ, List.set_cons_succ, hset]
  simp

end Sys2Proof.Machine
end

section
/-! SUPPORT. SEND_PUSH and SEND_QUEUE by their precondition (43_frame_encoder R211), SEND_QUEUE run to its end
(43_frame_encoder R213, R216), and the bytes of an undamaged frame through a parser (42_frame_parser R189). -/

namespace Sys2Proof.Machine

/-! ### The send precondition -/

theorem sendAccepted_iff {cfg : Params} {payload : List Byte} :
    sendAccepted cfg payload = true ↔ 1 ≤ payload.length ∧ payload.length ≤ cfg.maxPayload := by
  rw [sendAccepted, Bool.and_eq_true, decide_eq_true_iff, decide_eq_true_iff]
  rfl

/-- Either send of a payload that breaks the precondition is rejected (43_frame_encoder R211). -/
theorem exec_of_send_rejected {s : State} {i : Instr} {id : Byte} {payload : List Byte}
    (hi : i = .sendPush id payload ∨ i = .sendQueue id payload) (hs : s.accepts i)
    (h : sendAccepted s.cfg payload = false) : exec i s = .next s.rejectSend := by
  rcases hi with rfl | rfl <;> exact (guarded_of_accepted hs.1 hs.2).trans (by rw [h]; rfl)

/-- An accepted SEND_PUSH writes and flushes the encoded frame (43_frame_encoder R212). -/
theorem exec_sendPush_of_accepted {s : State} {id : Byte} {payload : List Byte} (hs : s.accepts (.sendPush id payload))
    (h : sendAccepted s.cfg payload = true) :
    exec (.sendPush id payload) s = .next (s.writeAndFlush (encodeFrame s.cfg.crcProfile id payload)) := by
  refine (guarded_of_accepted hs.1 hs.2).trans ?_
  rw [if_pos h]
  rfl

/-- An accepted SEND_QUEUE of the one context runs to its end (43_frame_encoder R213, notes/assumptions/10). -/
theorem exec_sendQueue_of_one {s : State} {id : Byte} {payload : List Byte} (hv : paramsValid s.cfg = true)
    (h1 : s.twoContexts = false) (h : sendAccepted s.cfg payload = true) :
    exec (.sendQueue id payload) s = outcome (enqueueAll (encodeFrame s.cfg.crcProfile id payload) 0 s) := by
  refine (guarded_of_accepted hv (admits_of_one h1 _)).trans ?_
  rw [if_pos h, if_neg (by simp [h1])]

/-! ### SEND_PUSH -/

/-- Where both calls return, the bytes that were pending are sent and then the frame (60_exceptions R313). -/
theorem State.writeAndFlush_of_returns {s : State} (hw : s.push.writeReturns = true) (hf : s.push.flushReturns = true)
    (frame : List Byte) : s.writeAndFlush frame = { s with push := { s.push with
      txPending := []
      txSent := s.push.txSent ++ s.push.txPending ++ frame } }.respond .ok 0 0 [] := by
  rw [List.append_assoc]
  exact (if_pos hw).trans (if_pos hf)

/-! ### SEND_QUEUE without interruption -/

theorem State.countDrops_zero (s : State) : s.countDrops 0 = s := by
  simp [State.countDrops]

theorem State.countDrops_countDrops (s : State) (m n : Nat) : (s.countDrops m).countDrops n = s.countDrops (m + n) := by
  simp [State.countDrops, BitVec.ofNat_add, BitVec.add_assoc]

/-- A byte that finds room is pushed, and the others follow. -/
theorem enqueueAll_cons_of_room {s : State} {rb : RingBuffer} {b : Byte} (h : rbPush s.cfg s.rb b = .ok (true, rb))
    (rest : List Byte) (k : Nat) : enqueueAll (b :: rest) k s = enqueueAll rest (k + 1) { s with rb := rb } := by
  rw [enqueueAll, pushOne_of_room h]
  rfl

/-- A full ring buffer takes none of the bytes, and each is counted once, under STOP together and under CONTINUE one by
one (43_frame_encoder R216). -/
theorem enqueueAll_of_full {s : State} (h : s.rb.count s.cfg = s.cfg.rbCap) (bytes : List Byte) (k : Nat) :
    enqueueAll bytes k s = .ok ((s.countDrops bytes.length).finishSend k) := by
  induction bytes generalizing s with
  | nil => rw [List.length_nil, State.countDrops_zero, enqueueAll]
  | cons b rest ih =>
    rw [List.length_cons, Nat.add_comm]
    cases hq : s.cfg.queueOnFull with
    | stop => exact except_bind_eq_ok.2 ⟨_, pushOne_of_full_stop h hq b rest.length k, rfl⟩
    | goOn =>
      rw [← State.countDrops_countDrops]
      exact except_bind_eq_ok.2 ⟨_, pushOne_of_full_goOn h hq b rest.length k, ih (s := s.countDrops 1) h⟩

theorem enqueueAll_nil_eq_sent (s : State) (k : Nat) : enqueueAll [] k s = .ok (s.sent s.rb [] k 0) := by
  simp [enqueueAll, State.sent]

/-- The pushes of a SEND_QUEUE take as many bytes as find room, count the others, and answer (43_frame_encoder R213). -/
theorem enqueueAll_pushes {s : State} (hv : paramsValid s.cfg = true) (hg : s.rb.Good s.cfg) (bytes : List Byte)
    (k : Nat) : ∃ rb, RingBuffer.Pushed s.cfg s.rb rb (bytes.take (s.roomFor bytes)) ∧
      enqueueAll bytes k s = .ok (s.sent rb bytes k (s.roomFor bytes)) := by
  induction bytes generalizing s k with
  | nil => exact ⟨s.rb, hg.pushed_nil, enqueueAll_nil_eq_sent s k⟩
  | cons b rest ih =>
    rcases hg.count.lt_or_eq with hroom | hfull
    · obtain ⟨rb, hpush, hpushed, hgood, hcount⟩ := hg.rbPush_of_room hv hroom b
      obtain ⟨rb', hpushed', hrest⟩ := ih (s := { s with rb := rb }) hv hgood (k + 1)
      have hm := State.roomFor_cons (u := { s with rb := rb }) hroom rfl hcount b rest
      rw [hm, List.take_succ_cons, enqueueAll_cons_of_room hpush]
      refine ⟨rb', hpushed.cons hv hpushed', ?_⟩
      rw [← State.sent_of_pushed s rb, hrest]
    · rw [State.roomFor_of_full hfull]
      exact ⟨s.rb, hg.pushed_nil, enqueueAll_of_full hfull (b :: rest) k⟩

/-! ### QUEUE_ON_FULL -/

/-- The same state of a block built with CONTINUE (00_scope R14). -/
def State.continuing (s : State) : State := { s with cfg := { s.cfg with queueOnFull := .goOn } }

theorem State.finishSend_continuing (s : State) (k : Nat) : (s.finishSend k).continuing = s.continuing.finishSend k :=
  rfl

theorem State.countDrops_continuing (s : State) (n : Nat) : (s.countDrops n).continuing = s.continuing.countDrops n :=
  rfl

/-- What the pushes come to under STOP they come to under CONTINUE: a push with room is the same, and the first one
without room settles the rest (43_frame_encoder R216). -/
theorem enqueueAll_continuing {bytes : List Byte} {k : Nat} {s t : State} (hq : s.cfg.queueOnFull = .stop)
    (h : enqueueAll bytes k s = .ok t) : enqueueAll bytes k s.continuing = .ok t.continuing := by
  induction bytes generalizing k s with
  | nil =>
    cases h
    rw [State.finishSend_continuing, enqueueAll]
  | cons b rest ih =>
    obtain ⟨⟨u, k', more⟩, hone, hrest⟩ := except_bind_eq_ok.1 h
    obtain ⟨pushed, rb, hpush, ⟨rfl, rfl, rfl, rfl⟩ | ⟨rfl, -, -⟩ | ⟨-, hgoOn, -⟩⟩ := pushOne_eq_ok.1 hone
    case inl =>
      exact (enqueueAll_cons_of_room (s := s.continuing) hpush rest k).trans (ih (s := { s with rb := rb }) hq hrest)
    case inr.inl =>
      have hfull : s.rb.count s.cfg = s.cfg.rbCap := by
        rcases rbPush_eq_ok.1 hpush with ⟨hfull, -⟩ | ⟨-, -, hpushed, -⟩
        · exact hfull
        · cases hpushed
      cases (enqueueAll_of_full hfull (b :: rest) k).symm.trans h
      rw [State.finishSend_continuing, State.countDrops_continuing]
      exact enqueueAll_of_full (s := s.continuing) hfull (b :: rest) k
    case inr.inr =>
      rw [hq] at hgoOn
      cases hgoOn

/-! ### An undamaged frame -/

/-- The wire layout with the bytes that a parser takes together (43_frame_encoder R210, 42_frame_parser R181). -/
theorem encodeFrame_eq_append (prof : CrcProfile) (id : Byte) (payload : List Byte) :
    encodeFrame prof id payload =
      [stx1, stx2, lo8 (BitVec.ofNat 16 (payload.length + 1)), hi8 (BitVec.ofNat 16 (payload.length + 1))] ++
        (id :: (payload ++ [lo8 (crc16 prof id payload)])) ++ [hi8 (crc16 prof id payload)] := by
  simp [encodeFrame]

/-- LEN of a frame is one more than its payload's length, in two bytes (43_frame_encoder R210). -/
theorem toNat_frameLen {payload : List Byte} (h : payload.length ≤ 65534) :
    (BitVec.ofNat 16 (payload.length + 1) : U16).toNat = payload.length + 1 :=
  Nat.mod_eq_of_lt (by omega)

/-- What the last byte of a frame that passed its check publishes (42_frame_parser R189, 10_state R40). -/
theorem Parser.frame_published_atCheck {cfg : Params} {P : Parser} (hg : P.Good cfg) {len : U16} {payload : List Byte}
    (hlen : len.toNat = payload.length + 1) (hmax : payload.length ≤ cfg.maxPayload) (id c0 : Byte) :
    (P.atCheck len id payload c0).published.frame cfg = .ok { id := id, len := len - 1, payload := payload } := by
  have hpred : (len - 1).toNat = payload.length := by rw [toNat_pred (by omega), hlen, Nat.add_sub_cancel]
  have hacc : Memory.readPrefix (P.atCheck len id payload c0).acc (len.toNat - 1) = payload := by
    rw [hlen, Nat.add_sub_cancel]
    exact Memory.readPrefix_writeBytes hg.acc.1 payload
  have hfrm : Memory.readPrefix (P.atCheck len id payload c0).published.frmPayload (len - 1).toNat = payload := by
    show Memory.readPrefix (Memory.writeBytes P.frmPayload 0 (Memory.readPrefix _ (len.toNat - 1))) _ = payload
    rw [hacc, hpred, Memory.readPrefix_writeBytes hg.frmPayload.1]
  exact frame_eq_ok.2 ⟨hpred.le.trans hmax, congrArg (Frame.mk id (len - 1)) hfrm.symm⟩

/-- A frame whose check bytes are its checksum is published with its last byte (42_frame_parser R189). -/
theorem feed_of_right_checksum {cfg : Params} {P : Parser} (hg : P.Good cfg) (hps : P.ps = .seek1) {l0 l1 : Byte}
    {payload : List Byte} (hpos : 1 ≤ payload.length) (hmax : payload.length ≤ cfg.maxPayload)
    (hlen : (u16Of l0 l1).toNat = payload.length + 1) {id c0 c1 : Byte}
    (hc : u16Of c0 c1 = crc16 cfg.crcProfile id payload) :
    P.feed cfg ([stx1, stx2, l0, l1] ++ (id :: (payload ++ [c0])) ++ [c1]) =
      .ok ((P.atCheck (u16Of l0 l1) id payload c0).published,
        [{ id := id, len := u16Of l0 l1 - 1, payload := payload }]) := by
  refine feed_append (fs := []) (feed_upToCheck hps hpos hmax hlen id c0) (feed_cons_eq_ok.2 ⟨_, true,
    (processByte_crcHi_eq_ok rfl ?_ ?_).2 (.inl ⟨?_, rfl, rfl⟩),
    .inr ⟨rfl, _, [], Parser.frame_published_atCheck hg hlen hmax id c0, rfl, rfl⟩⟩)
  · show 1 ≤ (u16Of l0 l1).toNat
    omega
  · show (u16Of l0 l1).toNat ≤ cfg.maxPayload + 1
    omega
  · rwa [Parser.atCheck_checks_iff hg.acc.1 hlen]

end Sys2Proof.Machine
end

section
/-! PROOF. The frame encoder (43_frame_encoder): the wire layout, the round trip through a parser, and what SEND_PUSH and
SEND_QUEUE answer. -/

namespace Sys2Proof.Machine

/-! ### The frame -/

/-- Settles O33: the halves of LEN and of the checksum are their little-endian bytes. -/
theorem encodedFrameLayout : Obligations.EncodedFrameLayout := by
  intro prof id payload _ hmax
  refine ⟨_, _, _, _, rfl, ?_, ?_⟩
  · rw [← u16Of_toNat, u16Of_lo8_hi8, toNat_frameLen hmax]
  · rw [← u16Of_toNat, u16Of_lo8_hi8]

/-- Settles O34: the parser is at its check after all bytes but the last, and the last one passes it. -/
theorem encodedFrameParsesBack : Obligations.EncodedFrameParsesBack := by
  intro cfg P id payload hv hg hps hpos hmax
  obtain ⟨-, hle, -⟩ := paramsValid_iff.1 hv
  have hlen := (congrArg BitVec.toNat (u16Of_lo8_hi8 _)).trans (toNat_frameLen (hmax.trans hle))
  rw [encodeFrame_eq_append, List.dropLast_concat]
  refine ⟨⟨_, feed_upToCheck hps hpos hmax hlen id _⟩, _, _,
    feed_of_right_checksum hg hps hpos hmax hlen (u16Of_lo8_hi8 _), rfl, rfl, ?_, rfl, rfl,
    Parser.frame_published_atCheck hg hlen hmax id _⟩
  show (u16Of _ _ - 1).toNat = payload.length
  rw [toNat_pred (by omega), hlen, Nat.add_sub_cancel]

/-! ### The commands -/

/-- Settles O36: the payload breaks the precondition. -/
theorem rejectedSendIsDropped : Obligations.RejectedSendIsDropped := by
  intro s id payload i hi hs hbad
  refine exec_of_send_rejected hi hs (Bool.eq_false_iff.2 fun h => ?_)
  obtain ⟨hpos, hmax⟩ := sendAccepted_iff.1 h
  omega

/-- Settles O37: the frame is written and flushed, and both calls return. -/
theorem sendPushAnswers : Obligations.SendPushAnswers := by
  intro s id payload hs hpos hmax hw hf
  rw [exec_sendPush_of_accepted hs (sendAccepted_iff.2 ⟨hpos, hmax⟩), State.writeAndFlush_of_returns hw hf]

/-- Settles O40: the command is its pushes, which take the bytes that find room. -/
theorem sendQueueEnqueuesWhatFits : Obligations.SendQueueEnqueuesWhatFits := by
  intro s id payload hg h1 hpos hmax
  have hlen := encodeFrame_length s.cfg.crcProfile id payload
  obtain ⟨rb, hpushed, hrun⟩ := enqueueAll_pushes hg.cfg hg.rb (encodeFrame s.cfg.crcProfile id payload) 0
  rw [State.sent, hlen, Nat.zero_add] at hrun
  refine ⟨_, rb, _, by rw [State.roomFor, hlen], hpushed, sendCount16_of_lt, ?_⟩
  rw [exec_sendQueue_of_one hg.cfg h1 (sendAccepted_iff.2 ⟨hpos, hmax⟩), hrun]
  rfl

/-- Settles O42: of a rejected send nothing depends on QUEUE_ON_FULL, and of an accepted one `enqueueAll_continuing`. -/
theorem stopAndContinueAgreeWithOneContext : Obligations.StopAndContinueAgreeWithOneContext := by
  intro s t id payload h1 hq h
  obtain ⟨hv, -⟩ := guarded_eq_next h
  show exec _ s.continuing = _
  cases ha : sendAccepted s.cfg payload with
  | false =>
    cases (exec_of_send_rejected (.inr rfl) ⟨hv, admits_of_one h1 _⟩ ha).symm.trans h
    exact exec_of_send_rejected (s := s.continuing) (.inr rfl) ⟨hv, admits_of_one h1 _⟩ ha
  | true =>
    rw [exec_sendQueue_of_one hv h1 ha, outcome_eq_next] at h
    obtain ⟨rb, drop, k, -, rfl⟩ := enqueueAll_frame h
    rw [exec_sendQueue_of_one (s := s.continuing) hv h1 ha]
    exact outcome_eq_next.2 (enqueueAll_continuing hq h)

end Sys2Proof.Machine
end

section
/-! PROOF. A scheduling pass by its report (44_pull_bus_scheduler R231 to R239): the faults of a broken report, the
answer while a transaction is in flight, the arming of the next transfer, and that transfer's length. -/

namespace Sys2Proof.Machine

/-! ### The length of a transfer -/

/-- No shorter multiple of ALIGN holds the bytes (44_pull_bus_scheduler R235). -/
theorem transferLength_le {cfg : Params} (hv : paramsValid cfg = true) {m k : Nat} (hpos : 0 < k)
    (hmul : k % cfg.align = 0) (hm : m ≤ k) : transferLength cfg m ≤ k := by
  obtain ⟨-, -, -, halign, -⟩ := paramsValid_iff.1 hv
  unfold transferLength
  split_ifs
  · exact Nat.le_of_dvd hpos (Nat.dvd_of_mod_eq_zero hmul)
  · exact roundup_le_of_dvd halign hm hmul

/-- Settles O49: the length is such a multiple, and no other one is smaller. -/
theorem transferLengthIsTheLeastMultiple : Obligations.TransferLengthIsTheLeastMultiple := by
  intro cfg m hv hm
  obtain ⟨hmul, hpos, hle, hcap⟩ := transferLength_fits hv hm
  exact ⟨hmul, hpos, hle, hcap, fun _ hk hkmul hmk => transferLength_le hv hk hkmul hmk⟩

/-! ### The checks of a report -/

/-- The armed transaction has not completed (44_pull_bus_scheduler R231). -/
def State.outstanding (s : State) : Bool := s.tip && s.pull.completed == 0

/-- The report of the pull transport, checked against the armed transaction (44_pull_bus_scheduler R231). -/
def State.reportFault (s : State) : Option FaultReason :=
  Machine.reportFault s.tip s.txLen.toNat s.pull.completed s.pull.rxCount s.pull.inFlight

theorem reportFault_of_many {s : State} (hc : 1 < s.pull.completed) :
    s.reportFault = some .multipleCompletions := if_pos hc

theorem reportFault_of_unarmed {s : State} (hc : s.pull.completed = 1) (ht : s.tip = false) :
    s.reportFault = some .completionWithoutArm := by
  simp [State.reportFault, Machine.reportFault, hc, ht]

theorem reportFault_of_overrun {s : State} (hc : s.pull.completed = 1) (ht : s.tip = true)
    (hr : s.txLen.toNat < s.pull.rxCount) : s.reportFault = some .rxOverrun := by
  simp [State.reportFault, Machine.reportFault, hc, ht, hr]

/-- Where the checks of the completion find nothing, those of the transactions in flight decide
(44_pull_bus_scheduler R231). -/
theorem reportFault_of_completionSound {s : State} (hs : s.completionSound) : s.reportFault =
    if 1 < s.pull.inFlight then some .inFlightOverflow
    else if s.pull.inFlight = 1 ∧ s.outstanding = false then some .inFlightWithoutArm
    else if s.pull.inFlight = 0 ∧ s.outstanding = true then some .lostTransaction
    else none := by
  have hcompletion : ¬ 1 < s.pull.completed ∧ ¬ (s.pull.completed = 1 ∧ s.tip = false) ∧
      ¬ (s.pull.completed = 1 ∧ s.txLen.toNat < s.pull.rxCount) := by
    rcases hs with hc | ⟨hc, ht, hr⟩
    · simp [hc]
    · simp [hc, ht, hr]
  obtain ⟨hmany, hunarmed, hoverrun⟩ := hcompletion
  unfold State.reportFault Machine.reportFault
  exact (if_neg hmany).trans ((if_neg hunarmed).trans (if_neg hoverrun))

/-! ### The commands of a pass -/

/-- The command of a pass is its scheduling pass and what follows it. -/
theorem exec_passCommand_of_accepts {s : State} {pass : Pass} (hs : s.accepts pass.command) :
    exec pass.command s = outcome (schedPass pass (afterPass pass) s) := by
  obtain ⟨hv, ha⟩ := hs
  cases pass <;> exact guarded_of_accepted hv ha

/-- A report that a check rejects is the end of the command (44_pull_bus_scheduler R231). -/
theorem exec_passCommand_of_reportFault {s : State} {pass : Pass} {reason : FaultReason}
    (hs : s.accepts pass.command) (hret : s.pull.pollReturns = true) (hf : s.reportFault = some reason) :
    exec pass.command s = .next ({ s with pull := { s.pull with completed := 0 } }.raise reason) :=
  (exec_passCommand_of_accepts hs).trans (outcome_eq_next.2
    (schedPass_eq_ok.2 (.inl ⟨hret, passAfterPoll_eq_ok.2 (.inl ⟨reason, hf, rfl⟩)⟩)))

/-- A poll that finds no completion takes nothing of the report (60_exceptions R314). -/
theorem setPolled_of_none {s : State} (hc : s.pull.completed = 0) : { s with pull := s.pull.polled } = s := by
  have : s.pull.polled = s.pull := by
    unfold PullTransport.polled
    rw [← hc]
  rw [this]

/-- Settles O43: each clause is one check of the report, the checks before it passing. -/
theorem brokenReportFaults : Obligations.BrokenReportFaults := by
  intro s i hi ha hret
  obtain ⟨pass, rfl⟩ : ∃ pass : Pass, i = pass.command := by
    rcases hi with rfl | rfl
    · exact ⟨.poll, rfl⟩
    · exact ⟨.router, rfl⟩
  have hfault {reason : FaultReason} := exec_passCommand_of_reportFault (reason := reason) ha hret
  refine ⟨fun hc => ?_, fun hc ht => ?_, fun hc ht hr => ?_, fun hs hf => ?_, fun hs hf hout => ?_,
    fun hf ht hc => ?_⟩
  · exact hfault (reportFault_of_many hc)
  · exact hfault (reportFault_of_unarmed hc ht)
  · exact hfault (reportFault_of_overrun hc ht hr)
  · exact hfault ((reportFault_of_completionSound hs).trans (if_pos hf))
  · have hnone : s.outstanding = false := by
      rcases hout with ht | hc
      · simp [State.outstanding, ht]
      · simp [State.outstanding, hc]
    exact hfault (by simp [reportFault_of_completionSound hs, hf, hnone])
  · have hone : s.outstanding = true := by simp [State.outstanding, ht, hc]
    have hlost := hfault (reason := .lostTransaction)
      (by simp [reportFault_of_completionSound (.inl hc), hf, hone])
    rwa [← PullTransport.polled, setPolled_of_none hc] at hlost

/-- While the armed transaction is in flight a pass neither drains nor arms (44_pull_bus_scheduler R232, R233). -/
theorem schedPass_of_inFlight {s t : State} {pass : Pass} {finish : AfterPass} (hret : s.pull.pollReturns = true)
    (ht : s.tip = true) (hc : s.pull.completed = 0) (hf : s.pull.inFlight = 1) (h : finish [] false s = .ok t) :
    schedPass pass finish s = .ok t := by
  have hnone : s.reportFault = none := by
    simp [reportFault_of_completionSound (.inl hc), State.outstanding, ht, hc, hf]
  have hdrain : drain s.pull.completed s.pull.rxCount { s with pull := s.pull.polled } = .ok (s, []) :=
    drain_eq_ok.2 (.inl ⟨by omega, (setPolled_of_none hc).symm, rfl⟩)
  exact schedPass_eq_ok.2 (.inl ⟨hret, passAfterPoll_eq_ok.2 (.inr ⟨hnone, s, [], hdrain, .inr ⟨by omega, h⟩⟩)⟩)

/-- Settles O44: the pass ends with no frame drained and nothing armed, and the response says so. -/
theorem pullPollInFlightAnswers : Obligations.PullPollInFlightAnswers := by
  intro s ha hret ht hc hf
  refine (exec_passCommand_of_accepts (pass := .poll) ha).trans (outcome_eq_next.2 ?_)
  exact schedPass_of_inFlight hret ht hc hf rfl

/-- With one context a pass that finds a sound report and nothing in flight drains, arms and goes on with the command
(44_pull_bus_scheduler R230). -/
theorem State.BlockGood.schedPass_of_one {s : State} (hg : s.BlockGood) (h1 : s.twoContexts = false)
    (hret : s.pull.Returns) (hs : s.completionSound) (h0 : s.pull.inFlight = 0)
    (hlost : s.pull.completed = 0 → s.tip = false) :
    ∃ u frames, ArmedFrom s u frames ∧ ∀ pass finish, schedPass pass finish s = finish frames true u := by
  obtain ⟨hpoll, hqueue⟩ := hret
  obtain ⟨P, frames, hfeed, hd, hdrain⟩ := hg.drain hs
  refine ⟨(s.drained P).armed, frames, hg.armedFrom hd hfeed h0, fun pass finish => ?_⟩
  rw [schedPass_of_sound hpoll hs h0 hlost hdrain, hd.fillAndArm_of_one h1]
  exact queueTransfer_of_returns hqueue
    (State.padded_txLen_le (s := (s.drained P).takeIn 0 _) hg.cfg (Nat.min_le_left _ _))

/-- Settles O45: the pass of one context has armed when PULL_POLL answers. -/
theorem pullPollArmsTheNextTransfer : Obligations.PullPollArmsTheNextTransfer := by
  intro s hg h1 hret hs h0 hlost
  obtain ⟨u, frames, harmed, hpass⟩ := hg.blockGood.schedPass_of_one h1 hret hs h0 hlost
  refine ⟨u, frames, harmed, ?_⟩
  refine (exec_passCommand_of_accepts (pass := .poll) ⟨hg.cfg, admits_of_one h1 _⟩).trans (outcome_eq_next.2 ?_)
  rw [hpass]
  rfl

end Sys2Proof.Machine
end

section
/-! PROOF. What stays while a transaction is in flight (44_pull_bus_scheduler R238, R240): only the two commands of a
scheduling pass touch the pull bus, and their pass does so only where its report shows nothing in flight. -/

namespace Sys2Proof.Machine

/-! ### Commands that are no pass -/

/-- `u` has the buffers of `s`, `tip`, and the transactions queued. -/
def SamePullBus (s u : State) : Prop :=
  u.tx = s.tx ∧ u.txLen = s.txLen ∧ u.rx = s.rx ∧ u.tip = s.tip ∧ u.pull.queued = s.pull.queued

theorem SamePullBus.refl (s : State) : SamePullBus s s := ⟨rfl, rfl, rfl, rfl, rfl⟩

/-- `t` is after an atomic step that did nothing on the pull bus and leaves no command there. -/
structure PassesBy (s t : State) : Prop where
  same : SamePullBus s t
  progress : t.port.progress.arming = false

theorem State.respond_arming (u : State) (st : Status) (b8 : Byte) (h16 : U16) (data : List Byte) :
    (u.respond st b8 h16 data).port.progress.arming = false := by
  rw [State.respond_port]
  rfl

theorem State.setProgress_arming (u : State) (g : Progress) :
    (u.setProgress g).port.progress.arming = g.arming := by
  rw [State.setProgress_port]

theorem State.raise_arming (u : State) (reason : FaultReason) :
    (u.raise reason).port.progress.arming = false :=
  State.respond_arming { u with
    fault := true
    faultReason := if u.fault then u.faultReason else reason.code } _ _ _ _

theorem EndsOrWaits.arming {u t : State} {b8 : Byte} (h : EndsOrWaits u t b8) :
    t.port.progress.arming = false := by
  rcases h with ⟨st, h16, data, rfl⟩ | ⟨armed, events, rfl⟩ | ⟨k, used, armed, events, rfl⟩
  · exact u.respond_arming _ _ _ _
  · exact u.setProgress_arming _
  · exact u.setProgress_arming _

/-- The end of a command, after work elsewhere than on the pull bus. -/
theorem SamePullBus.respond {s u : State} (h : SamePullBus s u) (st : Status) (b8 : Byte) (h16 : U16)
    (data : List Byte) : PassesBy s (u.respond st b8 h16 data) :=
  ⟨h, u.respond_arming st b8 h16 data⟩

/-- A command left in progress elsewhere than on the pull bus. -/
theorem SamePullBus.setProgress {s u : State} (h : SamePullBus s u) {g : Progress} (hg : g.arming = false) :
    PassesBy s (u.setProgress g) :=
  ⟨h, (u.setProgress_arming g).trans hg⟩

theorem SamePullBus.flush {s u : State} (h : SamePullBus s u) : PassesBy s u.flush := by
  unfold State.flush
  split_ifs
  · exact SamePullBus.respond (u := { u with push := u.push.flushed }) h _ _ _ _
  · exact h.setProgress rfl

theorem writeAndFlush_passesBy (s : State) (frame : List Byte) : PassesBy s (s.writeAndFlush frame) := by
  unfold State.writeAndFlush
  split_ifs
  · exact SamePullBus.flush (u := { s with push := s.push.write frame }) (SamePullBus.refl s)
  · exact (SamePullBus.refl s).setProgress rfl

theorem enqueueStep_passesBy {rest : List Byte} {k : Nat} {s t : State} (h : enqueueStep rest k s = .ok t) :
    PassesBy s t := by
  obtain ⟨rb, drop, -, h⟩ := enqueueStep_frame h
  have hu : SamePullBus s { s with rb := rb, cntQueueDrop := drop } := SamePullBus.refl s
  rcases h with ⟨k', rfl⟩ | ⟨rest', k', -, rfl⟩
  · exact hu.respond _ _ _ _
  · exact hu.setProgress rfl

theorem enqueueAll_passesBy {bytes : List Byte} {k : Nat} {s t : State} (h : enqueueAll bytes k s = .ok t) :
    PassesBy s t := by
  obtain ⟨rb, drop, k', -, rfl⟩ := enqueueAll_frame h
  exact SamePullBus.respond (u := { s with rb := rb, cntQueueDrop := drop }) (SamePullBus.refl s) _ _ _ _

theorem readPush_passesBy {k used : Nat} {armed : Bool} {events : List RouterEvent} {s t : State}
    (h : readPush k used armed events s = .ok t) : PassesBy s t := by
  obtain ⟨r, -, h⟩ := readPush_eq_ok.1 h
  have hu : SamePullBus s { s with pp := r.parser, push := r.transport } := SamePullBus.refl s
  rcases h with ⟨left, -, rfl⟩ | ⟨-, rfl⟩
  · exact hu.setProgress rfl
  · exact hu.respond _ _ _ _

theorem countPush_passesBy {armed : Bool} {events : List RouterEvent} {s t : State}
    (h : countPush armed events s = .ok t) : PassesBy s t := by
  rcases countPush_eq_ok.1 h with ⟨-, h⟩ | ⟨-, rfl⟩
  · exact readPush_passesBy h
  · exact (SamePullBus.refl s).setProgress rfl

/-- A command is a scheduling pass, or does nothing on the pull bus. -/
theorem exec_pullBus_cases {i : Instr} {s t : State} (h : exec i s = .next t) :
    (∃ pass, schedPass pass (afterPass pass) s = .ok t) ∨ PassesBy s t := by
  have hs : SamePullBus s s := SamePullBus.refl s
  obtain ⟨-, ⟨-, rfl⟩ | ⟨-, hrun⟩⟩ := exec_frame h
  · exact .inr ⟨hs, s.raise_arming _⟩
  rcases hrun with ⟨-, st, b8, h16, data, rfl⟩ | ⟨b, pushed, rb, -, -, rfl⟩ | ⟨popped, rb, st, b8, -, -, rfl⟩ |
    ⟨sel, b, P, done, -, -, rfl⟩ | ⟨-, rfl⟩ | ⟨id, payload, -, rfl⟩ | ⟨id, payload, -, -, hrun⟩ |
    ⟨id, payload, -, -, hrun⟩ | ⟨-, hrun⟩ | ⟨-, hrun⟩
  · exact .inr (hs.respond _ _ _ _)
  · exact .inr (SamePullBus.respond (u := { s with rb := rb }) hs _ _ _ _)
  · exact .inr (SamePullBus.respond (u := { s with rb := rb }) hs _ _ _ _)
  · exact .inr (SamePullBus.respond (u := s.setParser sel P) hs _ _ _ _)
  · exact .inr (SamePullBus.respond (u := { s with cntSendReject := s.cntSendReject + 1 }) hs _ _ _ _)
  · exact .inr (writeAndFlush_passesBy s _)
  · exact .inr (enqueueStep_passesBy hrun)
  · exact .inr (enqueueAll_passesBy hrun)
  · exact .inl ⟨.poll, hrun⟩
  · exact .inl ⟨.router, hrun⟩

/-- A command that goes on is a scheduling pass at its poll, does nothing on the pull bus, or is a pass past its
report. -/
theorem resume_pullBus_cases {s t : State} (h : resume s = .ok t) :
    (∃ pass, schedPass pass (afterPass pass) s = .ok t) ∨ PassesBy s t ∨
    s.port.progress.arming = true ∧ ∃ pass frames, queueTransfer pass (afterPass pass) frames s = .ok t ∨
      ∃ m, fillStep pass (afterPass pass) frames m s = .ok t := by
  have hs : SamePullBus s s := SamePullBus.refl s
  unfold resume at h
  cases hp : s.port.progress <;> rw [hp] at h
  case idle => exact .inr (.inl (Except.ok.inj h ▸ ⟨hs, by rw [hp]; rfl⟩))
  case sending => exact .inr (.inl (enqueueStep_passesBy h))
  case filling pass frames m => exact .inr (.inr ⟨rfl, pass, frames, .inr ⟨m, h⟩⟩)
  case writing frame => exact .inr (.inl (Except.ok.inj h ▸ writeAndFlush_passesBy s frame))
  case flushing => exact .inr (.inl (Except.ok.inj h ▸ hs.flush))
  case polling pass => exact .inl ⟨pass, h⟩
  case queueing pass frames => exact .inr (.inr ⟨rfl, pass, frames, .inl h⟩)
  case counting => exact .inr (.inl (countPush_passesBy h))
  case reading => exact .inr (.inl (readPush_passesBy h))

/-- A turn is a command that goes on, a new command, nothing on the pull bus, or the wait for a reset and its taking. -/
theorem takeTurn_pullBus_cases {s t : State} (h : takeTurn s = .next t) :
    resume s = .ok t ∨ (∃ i rest, exec i (s.setStream rest) = .next t) ∨ PassesBy s t ∨
    s.resetPending = true ∧ (t = s ∨ t = s.blockReset) := by
  have hwait (hi : s.port.isIdle = true) : PassesBy s s := ⟨SamePullBus.refl s, by rw [Port.isIdle_iff.1 hi]; rfl⟩
  rcases takeTurn_cases s with ⟨-, e⟩ | ⟨-, hr, e | e⟩ | ⟨hi, -, ⟨-, e⟩ | ⟨why, -, e⟩ | ⟨i, rest, -, e⟩⟩
  · exact .inl (outcome_eq_next.1 (e.symm.trans h))
  · exact .inr (.inr (.inr ⟨hr, .inl (Host.Outcome.next.inj (e.symm.trans h)).symm⟩))
  · exact .inr (.inr (.inr ⟨hr, .inr (Host.Outcome.next.inj (e.symm.trans h)).symm⟩))
  · exact .inr (.inr (.inl (Host.Outcome.next.inj (e.symm.trans h) ▸ hwait hi)))
  · refine .inr (.inr (.inl (Host.Outcome.next.inj (e.symm.trans h) ▸ ?_)))
    exact SamePullBus.respond (u := s.setStream _) (SamePullBus.refl s) _ _ _ _
  · exact .inr (.inl ⟨i, rest, e.symm.trans h⟩)

/-! ### Nothing queued while a transaction is in flight -/

/-- No transaction was queued, and the command of the issuing context does not stand filling or queueing. -/
def QueuesNothing (s t : State) : Prop := t.pull.queued = s.pull.queued ∧ t.port.progress.arming = false

theorem SamePullBus.queued {s u : State} (h : SamePullBus s u) : u.pull.queued = s.pull.queued := by
  obtain ⟨-, -, -, -, hqueued⟩ := h
  exact hqueued

theorem PassesBy.queuesNothing {s t : State} (h : PassesBy s t) : QueuesNothing s t := ⟨h.same.queued, h.progress⟩

/-- A pass whose report shows a transaction in flight does not arm (44_pull_bus_scheduler R233). -/
theorem schedPass_queuesNothing {pass : Pass} {s t : State} (hf : s.pull.inFlight ≠ 0)
    (h : schedPass pass (afterPass pass) s = .ok t) : QueuesNothing s t := by
  rcases schedPass_frame h with ⟨-, rfl⟩ | ⟨reason, -, rfl⟩ | ⟨-, pl, tip, frames, -, -, ⟨-, pp, push, he⟩ | ⟨h0, -⟩⟩
  · exact ⟨rfl, s.setProgress_arming _⟩
  · exact ⟨rfl, State.raise_arming { s with pull := s.pull.polled } reason⟩
  · obtain ⟨q, ht⟩ := he.setPort
    exact ⟨by rw [ht]; rfl, he.arming⟩
  · exact absurd h0 hf

theorem exec_queuesNothing {i : Instr} {s t : State} (hf : s.pull.inFlight ≠ 0) (h : exec i s = .next t) :
    QueuesNothing s t := by
  rcases exec_pullBus_cases h with ⟨pass, hrun⟩ | hby
  · exact schedPass_queuesNothing hf hrun
  · exact hby.queuesNothing

theorem takeTurn_queuesNothing {s t : State} (hf : s.pull.inFlight ≠ 0) (hp : s.port.progress.arming = false)
    (h : takeTurn s = .next t) : QueuesNothing s t := by
  rcases takeTurn_pullBus_cases h with h | ⟨i, rest, h⟩ | hby | ⟨-, rfl | rfl⟩
  · rcases resume_pullBus_cases h with ⟨pass, hrun⟩ | hby | ⟨harming, -⟩
    · exact schedPass_queuesNothing hf hrun
    · exact hby.queuesNothing
    · simp [hp] at harming
  · exact exec_queuesNothing (s := s.setStream rest) hf h
  · exact hby.queuesNothing
  · exact ⟨rfl, hp⟩
  · exact ⟨rfl, hp⟩

/-! ### One transaction at most -/

/-- One transaction was queued after those of `s`, or none. -/
def QueuesAtMostOne (s t : State) : Prop :=
  t.pull.queued = s.pull.queued ∨ ∃ bytes, t.pull.queued = s.pull.queued ++ [bytes]

/-- `PullQueue` adds the one transaction (44_pull_bus_scheduler R237). -/
theorem queueTransfer_queuesAtMostOne {pass : Pass} {frames : List Frame} {s u t : State}
    (h : queueTransfer pass (afterPass pass) frames u = .ok t) (hu : u.pull.queued = s.pull.queued) :
    QueuesAtMostOne s t := by
  rcases queueTransfer_frame h with ⟨-, pp, push, he⟩ | ⟨-, rfl⟩
  · obtain ⟨q, rfl⟩ := he.setPort
    exact .inr ⟨_, congrArg (· ++ [_]) hu⟩
  · exact .inl hu

theorem fillStep_queuesAtMostOne {pass : Pass} {frames : List Frame} {m : Nat} {s t : State}
    (h : fillStep pass (afterPass pass) frames m s = .ok t) : QueuesAtMostOne s t := by
  obtain ⟨tail, tx, txLen, ⟨m', rfl⟩ | h⟩ := fillStep_frame h
  · exact .inl rfl
  · exact queueTransfer_queuesAtMostOne h rfl

theorem schedPass_queuesAtMostOne {pass : Pass} {s t : State} (h : schedPass pass (afterPass pass) s = .ok t) :
    QueuesAtMostOne s t := by
  rcases schedPass_frame h with ⟨-, rfl⟩ | ⟨reason, -, rfl⟩ |
    ⟨-, pl, tip, frames, -, -, ⟨-, pp, push, he⟩ | ⟨-, tail, tx, txLen, ⟨-, m', rfl⟩ | h⟩⟩
  · exact .inl rfl
  · exact .inl rfl
  · obtain ⟨q, rfl⟩ := he.setPort
    exact .inl rfl
  · exact .inl rfl
  · exact queueTransfer_queuesAtMostOne h rfl

theorem exec_queuesAtMostOne {i : Instr} {s t : State} (h : exec i s = .next t) : QueuesAtMostOne s t := by
  rcases exec_pullBus_cases h with ⟨pass, hrun⟩ | hby
  · exact schedPass_queuesAtMostOne hrun
  · exact .inl hby.same.queued

theorem takeTurn_queuesAtMostOne {s t : State} (h : takeTurn s = .next t) : QueuesAtMostOne s t := by
  rcases takeTurn_pullBus_cases h with h | ⟨i, rest, h⟩ | hby | ⟨-, rfl | rfl⟩
  · rcases resume_pullBus_cases h with ⟨pass, hrun⟩ | hby | ⟨-, pass, frames, hrun | ⟨m, hrun⟩⟩
    · exact schedPass_queuesAtMostOne hrun
    · exact .inl hby.same.queued
    · exact queueTransfer_queuesAtMostOne hrun rfl
    · exact fillStep_queuesAtMostOne hrun
  · exact exec_queuesAtMostOne (s := s.setStream rest) h
  · exact .inl hby.same.queued
  · exact .inl rfl
  · exact .inl rfl

/-- The outside queues no transaction (60_exceptions R314). -/
theorem applyInput_queued (s : State) (i : Input) : (s.applyInput i).pull.queued = s.pull.queued := by
  cases i with
  | callReturns call returns => cases call <;> rfl
  | masterClock bytes =>
    show (s.masterClock bytes).pull.queued = _
    by_cases h : s.pull.inFlight = 0
    · rw [State.masterClock_of_none h]
    · rw [State.masterClock_of_inFlight h bytes rfl rfl]
  | _ => rfl

/-- Settles O48: of the commands by their pass, of the steps by what a turn and an act of the outside can do. -/
theorem singleFlight : Obligations.SingleFlight := by
  refine ⟨fun i s t h => ⟨fun hf => exec_queuesNothing hf h, exec_queuesAtMostOne h⟩, fun s t h => ⟨?_, ?_⟩⟩
  · intro u hu hf hp
    rw [step_of_turnedTo (paramsValid_of_step h) hu] at h
    exact takeTurn_queuesNothing hf hp h
  · rcases step_cases (paramsValid_of_step h) with ⟨-, e⟩ | ⟨x, rest, -, e⟩ | ⟨i, rest, -, -, e⟩
    · exact takeTurn_queuesAtMostOne (e.symm.trans h)
    · exact takeTurn_queuesAtMostOne (s := { s with turn := x, inputs := rest }) (e.symm.trans h)
    · rw [← Host.Outcome.next.inj (e.symm.trans h)]
      exact .inl (applyInput_queued { s with inputs := rest } i)

/-! ### The buffers of an armed transaction -/

/-- `t` has the buffers of `s`, and the transaction armed. -/
def KeepsArmed (s t : State) : Prop := t.tx = s.tx ∧ t.txLen = s.txLen ∧ t.rx = s.rx ∧ t.tip = true

theorem PassesBy.keepsArmed {s t : State} (h : PassesBy s t) (ht : s.tip = true) : KeepsArmed s t := by
  obtain ⟨⟨htx, htxLen, hrx, htip, -⟩, -⟩ := h
  exact ⟨htx, htxLen, hrx, htip.trans ht⟩

/-- A pass whose report shows no completion of the armed transaction drains nothing, and it does not arm: a report with
nothing in flight would be LOST_TRANSACTION (44_pull_bus_scheduler R231 to R233). -/
theorem schedPass_keepsArmed {pass : Pass} {s t : State} (ht : s.tip = true) (hc : s.pull.completed ≠ 1)
    (h : schedPass pass (afterPass pass) s = .ok t) : KeepsArmed s t := by
  rcases schedPass_frame h with ⟨-, rfl⟩ | ⟨reason, -, rfl⟩ |
    ⟨hnone, pl, tip, frames, hkept, -, ⟨-, pp, push, he⟩ | ⟨h0, -⟩⟩
  · exact ⟨rfl, rfl, rfl, ht⟩
  · exact ⟨rfl, rfl, rfl, ht⟩
  · obtain ⟨q, rfl⟩ := he.setPort
    exact ⟨rfl, rfl, rfl, (hkept hc).2.trans ht⟩
  · have hc0 : s.pull.completed = 0 := (completion_of_reportFault_none hnone).resolve_right fun h1 => hc h1.1
    rw [h0, hc0] at hnone
    exact absurd (ht.symm.trans (tip_of_reportFault_none hnone)) nofun

theorem exec_keepsArmed {i : Instr} {s t : State} (ht : s.tip = true) (hc : s.pull.completed ≠ 1)
    (h : exec i s = .next t) : KeepsArmed s t := by
  rcases exec_pullBus_cases h with ⟨pass, hrun⟩ | hby
  · exact schedPass_keepsArmed ht hc hrun
  · exact hby.keepsArmed ht

/-- Only C fills or queues, and it has not armed yet then (44_pull_bus_scheduler R233). -/
theorem Progress.tip_of_arming {s : State} {x : Context} {g : Progress} (hg : g.good s x) (h : g.arming = true) :
    s.tip = false := by
  cases g with
  | filling pass frames m =>
    cases x with
    | p => exact hg.elim
    | c =>
      obtain ⟨-, -, -, htip⟩ := hg
      exact htip
  | queueing pass frames =>
    cases x with
    | p => exact hg.elim
    | c =>
      obtain ⟨htip, -⟩ := hg
      exact htip
  | _ => cases h

theorem takeTurn_keepsArmed {s t : State} (hg : s.Good) (hr : s.resetPending = false) (ht : s.tip = true)
    (hc : s.pull.completed ≠ 1) (h : takeTurn s = .next t) : KeepsArmed s t := by
  rcases takeTurn_pullBus_cases h with h | ⟨i, rest, h⟩ | hby | ⟨hr', -⟩
  · rcases resume_pullBus_cases h with ⟨pass, hrun⟩ | hby | ⟨harming, -⟩
    · exact schedPass_keepsArmed ht hc hrun
    · exact hby.keepsArmed ht
    · exact absurd (ht.symm.trans (Progress.tip_of_arming hg.port_progress harming)) nofun
  · exact exec_keepsArmed (s := s.setStream rest) ht hc h
  · exact hby.keepsArmed ht
  · exact absurd (hr'.symm.trans hr) nofun

/-- Settles O50: of the commands by their pass, of the steps by what a turn can do. -/
theorem buffersStayWhileInFlight : Obligations.BuffersStayWhileInFlight := by
  refine ⟨fun i s t ht hc h => exec_keepsArmed ht hc h, fun s u t hg hu hr ht hc h => ?_⟩
  rw [step_of_turnedTo hg.cfg hu] at h
  exact takeTurn_keepsArmed (hg.of_turnedTo hu) hr ht hc h

end Sys2Proof.Machine
end

section
/-! SUPPORT. The two phases of a routing pass (45_router R261 to R266): which frames are a Change, the pull frames up to
the first one, what calls of `PushReadByte` take from the transport, and a run of the push phase call by call. -/

namespace Sys2Proof.Machine

/-! ### Qualifying frames -/

theorem qualifyingChange_eq_none_iff {cfg : Params} {f : Frame} :
    qualifyingChange cfg f = none ↔ (f.id = cfg.changeId → decodeChange cfg f.payload = none) := by
  unfold qualifyingChange
  split_ifs with hid <;> simp [hid]

theorem qualifyingChange_eq_some_iff {cfg : Params} {f : Frame} {ch : Change} :
    qualifyingChange cfg f = some ch ↔ f.id = cfg.changeId ∧ decodeChange cfg f.payload = some ch := by
  unfold qualifyingChange
  split_ifs with hid <;> simp [hid]

/-! ### The pull phase -/

theorem pullPhase_cons_of_change {cfg : Params} {f : Frame} {ch : Change} (h : qualifyingChange cfg f = some ch)
    (frames : List Frame) : pullPhase cfg (f :: frames) = ([.change f.id ch], true) := by
  rw [pullPhase, h]

theorem pullPhase_cons_of_none {cfg : Params} {f : Frame} (h : qualifyingChange cfg f = none) (frames : List Frame) :
    pullPhase cfg (f :: frames) = (.dispatchPull f :: (pullPhase cfg frames).1, (pullPhase cfg frames).2) := by
  rw [pullPhase, h]

/-- Frames that are no Change are dispatched, and the phase goes on behind them (45_router R264). -/
theorem pullPhase_append {cfg : Params} {pre : List Frame} (h : ∀ f ∈ pre, qualifyingChange cfg f = none)
    (post : List Frame) :
    pullPhase cfg (pre ++ post) = (pre.map .dispatchPull ++ (pullPhase cfg post).1, (pullPhase cfg post).2) := by
  induction pre with
  | nil => rfl
  | cons f pre ih =>
    obtain ⟨hf, hpre⟩ := List.forall_mem_cons.1 h
    rw [List.cons_append, pullPhase_cons_of_none hf, ih hpre]
    rfl

/-! ### Calls of `PushReadByte` -/

/-- The transport after `n` calls of `PushReadByte` that returned a byte (60_exceptions R313). -/
def PushTransport.afterReads (p : PushTransport) (n : Nat) : PushTransport :=
  { p with rxq := p.rxq.drop n, readsLeft := p.readsLeft.map (· - n) }

@[simp] theorem PushTransport.afterReads_rxq (p : PushTransport) (n : Nat) : (p.afterReads n).rxq = p.rxq.drop n := rfl

@[simp] theorem PushTransport.afterReads_readsLeft (p : PushTransport) (n : Nat) :
    (p.afterReads n).readsLeft = p.readsLeft.map (· - n) := rfl

theorem PushTransport.afterReads_zero (p : PushTransport) : p.afterReads 0 = p := by
  simp [PushTransport.afterReads]

theorem PushTransport.afterReads_afterReads (p : PushTransport) (m n : Nat) :
    (p.afterReads m).afterReads n = p.afterReads (m + n) := by
  simp [PushTransport.afterReads, Function.comp_def, Nat.sub_sub]

/-- `n` calls of `PushReadByte` return a byte each (60_exceptions R313, R315). -/
def PushTransport.Gives (p : PushTransport) (n : Nat) : Prop :=
  n ≤ p.rxq.length ∧ ∀ m, p.readsLeft = some m → n ≤ m

theorem PushTransport.gives_zero (p : PushTransport) : p.Gives 0 := ⟨Nat.zero_le _, fun _ _ => Nat.zero_le _⟩

/-- The three things a call can come to (60_exceptions R313, R315). -/
theorem PushTransport.readByte_cases (p : PushTransport) :
    p.readsLeft = some 0 ∧ p.readByte = .hangs ∨
    p.readsLeft ≠ some 0 ∧ p.rxq = [] ∧ p.readByte = .empty ∨
    p.readsLeft ≠ some 0 ∧ ∃ b later, p.rxq = b :: later ∧ p.readByte = .byte b (p.afterReads 1) := by
  unfold PushTransport.readByte
  split_ifs with hleft
  · exact .inl ⟨hleft, rfl⟩
  · cases hrxq : p.rxq with
    | nil => exact .inr (.inl ⟨hleft, rfl, rfl⟩)
    | cons b later => exact .inr (.inr ⟨hleft, b, later, rfl, by simp [PushTransport.afterReads, hrxq]⟩)

/-- The calls left after one that gave a byte, counted from before it. -/
theorem PushTransport.readsLeft_of_afterReads {p : PushTransport} (h : p.readsLeft ≠ some 0) {n : Nat}
    (hn : (p.afterReads 1).readsLeft = some n) : p.readsLeft = some (n + 1) := by
  cases hleft : p.readsLeft with
  | none => simp [hleft] at hn
  | some m =>
    have hm : m ≠ 0 := fun h0 => h (by rw [hleft, h0])
    have hsub : m - 1 = n := by simpa [hleft] using hn
    rw [← hsub, Nat.sub_add_cancel (Nat.pos_of_ne_zero hm)]

/-- One call that gives a byte, and those that give one after it. -/
theorem PushTransport.Gives.succ {p : PushTransport} {b : Byte} {later : List Byte} (hleft : p.readsLeft ≠ some 0)
    (hrxq : p.rxq = b :: later) {n : Nat} (h : (p.afterReads 1).Gives n) : p.Gives (n + 1) := by
  obtain ⟨hlen, hreads⟩ := h
  refine ⟨by simpa [hrxq] using hlen, fun m hm => ?_⟩
  have hn : n ≤ m - 1 := hreads (m - 1) (by simp [hm])
  have h0 : m ≠ 0 := fun h0 => hleft (by rw [hm, h0])
  omega

/-! ### The push phase, call by call -/

/-- The byte that completes a frame leaves the parser in SEEK1 (42_frame_parser R189). -/
theorem seek1_of_processByte_true {cfg : Params} {P Q : Parser} {b : Byte} (h : P.processByte cfg b = .ok (Q, true)) :
    Q.ps = .seek1 := by
  rcases processByte_cases h with ⟨-, ⟨⟩, -⟩ | ⟨-, ⟨⟩, -⟩ | ⟨-, ⟨⟩, -⟩ | ⟨-, ⟨⟩, -⟩ | ⟨-, ⟨⟩, -⟩ | ⟨-, ⟨⟩, -⟩ |
    ⟨-, ⟨⟩, -⟩ | ⟨-, hcheck⟩
  obtain ⟨-, hcheck⟩ := crcHiByte_eq_ok.1 hcheck
  split_ifs at hcheck <;> obtain ⟨-, rfl⟩ := hcheck <;> rfl

/-- A byte that completes a frame, as a sequence of one (44_pull_bus_scheduler R232). -/
theorem feed_singleton_of_completion {cfg : Params} {P Q : Parser} {b : Byte} {f : Frame}
    (h : P.processByte cfg b = .ok (Q, true)) (hf : Q.frame cfg = .ok f) : P.feed cfg [b] = .ok (Q, [f]) :=
  feed_cons_eq_ok.2 ⟨Q, true, h, .inr ⟨rfl, f, [], hf, rfl, rfl⟩⟩

/-- A run of the push phase with at most `k` bytes to read: it ends, is held by a call that does not return, ends with a
Change, or reads a byte that completes no Change and goes on (45_router R263, R265, R266; 60_exceptions R315). -/
inductive PushRun (cfg : Params) : Nat → Parser → PushTransport → PushResult → Prop
  | ended {k : Nat} {P : Parser} {p : PushTransport} (h : k = 0 ∨ p.rxq = []) :
      PushRun cfg k P p { parser := P, transport := p, used := 0, events := [], found := false, stuck := none }
  | held {k : Nat} {P : Parser} {p : PushTransport} (h : p.readsLeft = some 0) :
      PushRun cfg (k + 1) P p
        { parser := P, transport := p, used := 0, events := [], found := false, stuck := some (k + 1) }
  | change {k : Nat} {P Q : Parser} {p : PushTransport} {b : Byte} {later : List Byte} {f : Frame} {ch : Change}
      (hleft : p.readsLeft ≠ some 0) (hrxq : p.rxq = b :: later) (hfeed : P.feed cfg [b] = .ok (Q, [f]))
      (hps : Q.ps = .seek1) (hch : qualifyingChange cfg f = some ch) :
      PushRun cfg (k + 1) P p { parser := Q, transport := p.afterReads 1, used := 1, events := [.change f.id ch],
                                found := true, stuck := none }
  | read {k : Nat} {P Q : Parser} {p : PushTransport} {b : Byte} {later : List Byte} {frames : List Frame}
      {r : PushResult} (hleft : p.readsLeft ≠ some 0) (hrxq : p.rxq = b :: later)
      (hfeed : P.feed cfg [b] = .ok (Q, frames)) (hnone : ∀ f ∈ frames, qualifyingChange cfg f = none)
      (hrun : PushRun cfg k Q (p.afterReads 1) r) :
      PushRun cfg (k + 1) P p { r with used := r.used + 1, events := frames.map .dispatchPush ++ r.events }

/-- Whatever the push phase answers, it has run so. -/
theorem pushRun_of_pushPhase {cfg : Params} {k : Nat} {P : Parser} {p : PushTransport} {r : PushResult}
    (h : pushPhase cfg k P p = .ok r) : PushRun cfg k P p r := by
  induction k generalizing P p r with
  | zero =>
    cases h
    exact .ended (.inl rfl)
  | succ k ih =>
    rw [pushPhase] at h
    rcases p.readByte_cases with ⟨hleft, hcall⟩ | ⟨-, hrxq, hcall⟩ | ⟨hleft, b, later, hrxq, hcall⟩ <;> rw [hcall] at h
    · cases h
      exact .held hleft
    · cases h
      exact .ended (.inr hrxq)
    · obtain ⟨⟨Q, done⟩, hbyte, h⟩ := except_bind_eq_ok.1 h
      cases done with
      | false =>
        obtain ⟨r', hr', h⟩ := except_bind_eq_ok.1 h
        cases h
        exact .read (frames := []) hleft hrxq (feed_cons_of_silent hbyte []) nofun (ih hr')
      | true =>
        obtain ⟨f, hf, h⟩ := except_bind_eq_ok.1 h
        have hfeed := feed_singleton_of_completion hbyte hf
        cases hch : qualifyingChange cfg f with
        | some ch =>
          rw [hch] at h
          cases h
          exact .change hleft hrxq hfeed (seek1_of_processByte_true hbyte) hch
        | none =>
          rw [hch] at h
          obtain ⟨r', hr', h⟩ := except_bind_eq_ok.1 h
          cases h
          exact .read (frames := [f]) hleft hrxq hfeed (by simpa using hch) (ih hr')

section
variable {cfg : Params} {k : Nat} {P : Parser} {p : PushTransport} {r : PushResult}

/-- A run takes from the transport what its calls gave, and makes no more calls than it may (45_router R265). -/
theorem PushRun.takes (h : PushRun cfg k P p r) :
    r.used ≤ k ∧ p.Gives r.used ∧ r.transport = p.afterReads r.used := by
  induction h with
  | ended => exact ⟨Nat.zero_le _, PushTransport.gives_zero _, (PushTransport.afterReads_zero _).symm⟩
  | held => exact ⟨Nat.zero_le _, PushTransport.gives_zero _, (PushTransport.afterReads_zero _).symm⟩
  | change hleft hrxq =>
    exact ⟨Nat.succ_pos _, .succ hleft hrxq (PushTransport.gives_zero _), rfl⟩
  | @read k P Q p b later frames r hleft hrxq _ _ _ ih =>
    obtain ⟨hused, hgives, htransport⟩ := ih
    refine ⟨Nat.succ_le_succ hused, hgives.succ hleft hrxq, ?_⟩
    rw [Nat.add_comm, ← PushTransport.afterReads_afterReads]
    exact htransport

/-- A run is held without a Change, with the calls it has not made left, where the transport gives no more bytes
(60_exceptions R315). -/
theorem PushRun.of_stuck (h : PushRun cfg k P p r) {left : Nat} (hs : r.stuck = some left) :
    r.found = false ∧ 0 < left ∧ left + r.used = k ∧ p.readsLeft = some r.used := by
  induction h with
  | ended => cases hs
  | held hleft =>
    cases hs
    exact ⟨rfl, Nat.succ_pos _, rfl, hleft⟩
  | change => cases hs
  | read hleft _ _ _ _ ih =>
    obtain ⟨hfound, hpos, hsum, hreads⟩ := ih hs
    exact ⟨hfound, hpos, by rw [← hsum]; rfl, PushTransport.readsLeft_of_afterReads hleft hreads⟩

/-- Where every call returns, no run is held (60_exceptions R315). -/
theorem PushRun.stuck_eq_none (h : PushRun cfg k P p r) (hreads : p.readsLeft = none) : r.stuck = none := by
  cases hs : r.stuck with
  | none => rfl
  | some left =>
    obtain ⟨-, -, -, hleft⟩ := h.of_stuck hs
    exact absurd (hreads.symm.trans hleft) nofun

/-- A run that is not held and finds no Change reads all it may, or all there is (45_router R265). -/
theorem PushRun.used_eq (h : PushRun cfg k P p r) (hfound : r.found = false) (hs : r.stuck = none) :
    r.used = min k p.rxq.length := by
  induction h with
  | ended h =>
    rcases h with rfl | hempty
    · simp
    · simp [hempty]
  | held => cases hs
  | change => cases hfound
  | read _ hrxq _ _ _ ih => simp [ih hfound hs, hrxq, Nat.succ_min_succ]

/-- The bytes a run reads are one, and those read after it. -/
theorem take_succ_of_rxq {b : Byte} {later : List Byte} (hrxq : p.rxq = b :: later) (n : Nat) :
    p.rxq.take (n + 1) = [b] ++ (p.afterReads 1).rxq.take n := by
  simp [hrxq]

/-- The bytes a run reads go through the parser; the frames they complete are dispatched, up to a Change, which is the
last of them and leaves the parser in SEEK1 (45_router R263, R265, R266). -/
theorem PushRun.feeds (h : PushRun cfg k P p r) :
    ∃ frames, P.feed cfg (p.rxq.take r.used) = .ok (r.parser, frames) ∧
      (r.found = false → r.events = frames.map .dispatchPush ∧ ∀ f ∈ frames, qualifyingChange cfg f = none) ∧
      (r.found = true → r.parser.ps = .seek1 ∧ ∃ pre f ch, frames = pre ++ [f] ∧ qualifyingChange cfg f = some ch ∧
        r.events = pre.map .dispatchPush ++ [.change f.id ch] ∧ ∀ g ∈ pre, qualifyingChange cfg g = none) := by
  induction h with
  | ended => exact ⟨[], rfl, fun _ => ⟨rfl, nofun⟩, nofun⟩
  | held => exact ⟨[], rfl, fun _ => ⟨rfl, nofun⟩, nofun⟩
  | @change k P Q p b later f ch _ hrxq hfeed hps hch =>
    refine ⟨[f], ?_, nofun, fun _ => ⟨hps, [], f, ch, rfl, hch, rfl, nofun⟩⟩
    rw [take_succ_of_rxq hrxq]
    exact hfeed
  | @read k P Q p b later frames r _ hrxq hfeed hnone _ ih =>
    obtain ⟨later', hlater, hdispatched, hchange⟩ := ih
    refine ⟨frames ++ later', ?_, fun hfound => ?_, fun hfound => ?_⟩
    · rw [take_succ_of_rxq hrxq]
      exact feed_append hfeed hlater
    · obtain ⟨hevents, hlaterNone⟩ := hdispatched hfound
      exact ⟨by simp [hevents], List.forall_mem_append.2 ⟨hnone, hlaterNone⟩⟩
    · obtain ⟨hps, pre, f, ch, rfl, hch, hevents, hpre⟩ := hchange hfound
      exact ⟨hps, frames ++ pre, f, ch, by simp, hch, by simp [hevents], List.forall_mem_append.2 ⟨hnone, hpre⟩⟩

end

end Sys2Proof.Machine
end

section
/-! PROOF. The dual-bus router (45_router): its two phases, and ROUTER_PASS with a transaction in flight and with
none. -/

namespace Sys2Proof.Machine

/-! ### The phases -/

/-- Settles O51: the frames before the first Change are dispatched, and the phase behind them is that Change. -/
theorem pullPhaseEndsAtTheFirstChange : Obligations.PullPhaseEndsAtTheFirstChange := by
  intro cfg pre hpre
  have happend := pullPhase_append fun f hf => qualifyingChange_eq_none_iff.2 (hpre f hf)
  refine ⟨by simpa [pullPhase] using happend [], fun f ch post hid hch => ?_⟩
  rw [happend, pullPhase_cons_of_change (qualifyingChange_eq_some_iff.2 ⟨hid, hch⟩)]

/-- Settles O52: a run of the push phase, by what it takes, where it is held, and what its bytes complete. -/
theorem pushPhaseReadsABoundedPrefix : Obligations.PushPhaseReadsABoundedPrefix := by
  intro cfg k P p r h
  have hrun := pushRun_of_pushPhase h
  obtain ⟨hused, ⟨hlen, hreads⟩, htransport⟩ := hrun.takes
  obtain ⟨frames, hfeed, hdispatched, hchange⟩ := hrun.feeds
  refine ⟨hused, hlen, htransport, hreads, fun _ hs => hrun.of_stuck hs, frames, hfeed, fun hfound => ?_,
    fun hfound => ?_⟩
  · obtain ⟨hevents, hnone⟩ := hdispatched hfound
    exact ⟨hrun.used_eq hfound, hevents, fun f hf => qualifyingChange_eq_none_iff.1 (hnone f hf)⟩
  · obtain ⟨hps, pre, f, ch, hframes, hch, hevents, hpre⟩ := hchange hfound
    obtain ⟨hid, hdecode⟩ := qualifyingChange_eq_some_iff.1 hch
    exact ⟨hps, pre, f, ch, hframes, hid, hdecode, hevents, fun g hg => qualifyingChange_eq_none_iff.1 (hpre g hg)⟩

/-! ### The command -/

/-- Settles O53: the pass goes on with no frame drained, so the push phase is all there is. -/
theorem routerPassInFlightAnswers : Obligations.RouterPassInFlightAnswers := by
  intro s ha hpp hret ht hc hf
  have hexec {t : State} (h : countPush false [] s = .ok t) : exec .routerPass s = .next t := by
    have hfinish : finishRouter [] false s = .ok t := finishRouter_eq_ok.2 (.inr ⟨rfl, h⟩)
    exact (exec_passCommand_of_accepts (pass := .router) ha).trans
      (outcome_eq_next.2 (schedPass_of_inFlight hret ht hc hf hfinish))
  refine ⟨fun havail => hexec (countPush_eq_ok.2 (.inr ⟨havail, rfl⟩)), fun havail => ?_⟩
  obtain ⟨t, hread, r, hr, hdone, hheld⟩ := readPush_answers hpp s.push.available 0 false []
  have hexec := hexec (countPush_eq_ok.2 (.inl ⟨havail, hread⟩))
  simp only [Nat.zero_add, List.nil_append] at hdone hheld
  refine ⟨r, hr, fun hreturns => ?_, fun left hs => ?_⟩
  · rw [hexec, hdone (hreturns.elim (pushRun_of_pushPhase hr).stuck_eq_none id)]
    rfl
  · rw [hexec, hheld left hs]
    rfl

/-- What arming leaves of the parameters, of `PP` and of the push transport. -/
theorem ArmedFrom.frame {s u : State} {frames : List Frame} (h : ArmedFrom s u frames) :
    u.cfg = s.cfg ∧ u.pp = s.pp ∧ u.push = s.push := by
  rw [h.rest]
  exact ⟨rfl, rfl, rfl⟩

/-- Settles O54: the pass arms, and what follows it is what `PassAnswers` says, read with every call returning. -/
theorem routerPassServesThePullBusFirst : Obligations.RouterPassServesThePullBusFirst := by
  intro s hg h1 hret hs h0 hlost
  obtain ⟨u, frames, harmed, hpass⟩ := hg.blockGood.schedPass_of_one h1 hret hs h0 hlost
  obtain ⟨hcfg, hpp, hpush⟩ := harmed.frame
  obtain ⟨t, ht, hanswers⟩ := afterPass_answers (s := u) (by rw [hcfg, hpp]; exact hg.pp) .router frames true
  have hexec : exec .routerPass s = .next t :=
    (exec_passCommand_of_accepts (pass := .router) ⟨hg.cfg, admits_of_one h1 _⟩).trans
      (outcome_eq_next.2 ((hpass _ _).trans ht))
  have ⟨hchange, _, hcount⟩ := hanswers
  rw [hcfg] at hchange hcount
  refine ⟨u, frames, t, harmed, hexec, hchange, ?_, hanswers⟩
  rintro hfound ⟨-, -, havail, hreads⟩
  obtain ⟨r, hr, hdone, -⟩ := hcount hfound (by rwa [hpush])
  rw [hcfg, hpp, hpush] at hr
  refine ⟨r, hr, ?_⟩
  rw [hdone ((pushRun_of_pushPhase hr).stuck_eq_none hreads), Nat.zero_add]
  rfl

end Sys2Proof.Machine
end

section
/-! PROOF. The registers (46_control): RD_REG answers with a register's value, the fields of STATUS and CFG_OPTIONS, and
no step changes the parameters that the configuration registers show. -/

namespace Sys2Proof.Machine

/-! ### Register values -/

/-- A register shows a quantity below 2^32 as it is (46_control R282, R285). -/
theorem image32_of_lt {n : Nat} (h : n < 2 ^ 32) : image32 n = BitVec.ofNat 32 n := if_pos h

/-- RD_REG answers the register's value and does nothing else (46_control R280). -/
theorem exec_rdReg_of_accepts {s : State} {reg : Reg} (hs : s.accepts (.rdReg reg)) :
    exec (.rdReg reg) s = .next (s.respond .ok 0 0 (u32le (regValue s reg))) :=
  guarded_of_accepted hs.1 hs.2

/-- Settles O56: valid parameters but for RB_CAP and IDX_W are 16 bits wide, so a register shows them as they are. -/
theorem rdRegAnswers : Obligations.RdRegAnswers := by
  intro s reg hs
  obtain ⟨-, hpayload, -, halign, hxfer, hmod, hcap⟩ := paramsValid_iff.1 hs.1
  have hle : s.cfg.align ≤ s.cfg.xferCap := Nat.le_of_dvd hxfer (Nat.dvd_of_mod_eq_zero hmod)
  exact ⟨exec_rdReg_of_accepts hs, image32_of_lt (by omega), image32_of_lt, image32_of_lt (by omega),
    image32_of_lt (by omega), image32_of_lt, rfl, rfl, image32_of_lt⟩

/-! ### Fields of a register

`Nat.reduceAdd` is off: it would write the width of a concatenation as one number, and the lemmas about `++` match a
sum of two widths. -/

/-- The flags of STATUS (46_control R284). -/
theorem statusWord_flags (s : State) : (statusWord s).getLsbD 0 = s.tip ∧ (statusWord s).getLsbD 1 = s.fault ∧
    (statusWord s).getLsbD 8 = s.pp.frmValid ∧ (statusWord s).getLsbD 9 = s.pl.frmValid := by
  simp [statusWord, bit, BitVec.getLsbD_append, -BitVec.getLsbD_eq_getElem, -Nat.reduceAdd]

/-- The wider fields of STATUS (46_control R284). -/
theorem statusWord_fields (s : State) : (statusWord s).extractLsb' 2 3 = s.pp.ps.code ∧
    (statusWord s).extractLsb' 5 3 = s.pl.ps.code ∧ (statusWord s).extractLsb' 10 6 = 0 ∧
    (statusWord s).extractLsb' 16 8 = s.faultReason ∧ (statusWord s).extractLsb' 24 8 = 0 := by
  simp [statusWord, BitVec.extractLsb'_append_eq_ite, -Nat.reduceAdd]

/-- The flags of CFG_OPTIONS (46_control R283). -/
theorem optionsWord_flags (cfg : Params) :
    (optionsWord cfg).getLsbD 0 = decide (cfg.crcProfile = .x25Named) ∧
    (optionsWord cfg).getLsbD 1 = decide (cfg.seek2OnA5 = .hold) ∧
    (optionsWord cfg).getLsbD 2 = decide (cfg.queueOnFull = .goOn) := by
  simp [optionsWord, bit, BitVec.getLsbD_append, beq_eq_decide, -BitVec.getLsbD_eq_getElem, -Nat.reduceAdd]

/-- The wider fields of CFG_OPTIONS (46_control R283). -/
theorem optionsWord_fields (cfg : Params) : (optionsWord cfg).extractLsb' 3 5 = 0 ∧
    (optionsWord cfg).extractLsb' 8 8 = cfg.changeId ∧ (optionsWord cfg).extractLsb' 16 16 = 0 := by
  simp [optionsWord, BitVec.extractLsb'_append_eq_ite, -Nat.reduceAdd]

/-- Every field of STATUS is 0 after reset (46_control R284, from 10_state R55). -/
theorem statusWord_initial (cfg : Params) : statusWord (State.initial cfg) = 0 := by
  simp [statusWord, State.initial, Parser.reset, ParserState.code, bit]

/-- Settles O57: the fields of the two words, and a parser in SEEK1 shows 0. -/
theorem statusAndOptionsFields : Obligations.StatusAndOptionsFields := by
  refine ⟨fun s => ?_, statusWord_initial, rfl⟩
  obtain ⟨htip, hfault, hppValid, hplValid⟩ := statusWord_flags s
  obtain ⟨hpp, hpl, hlow, hreason, hhigh⟩ := statusWord_fields s
  obtain ⟨hcrc, hseek, hfull⟩ := optionsWord_flags s.cfg
  obtain ⟨hmid, hid, htop⟩ := optionsWord_fields s.cfg
  exact ⟨htip, hfault, hpp, hpl, hppValid, hplValid, hlow, hreason, hhigh, hcrc, hseek, hfull, hmid, hid, htop⟩

/-! ### The parameters -/

/-- `t` has the parameters and the number of contexts of `s` (46_control R286, 00_scope R18). -/
def SameBuild (s t : State) : Prop := t.cfg = s.cfg ∧ t.twoContexts = s.twoContexts

theorem SameBuild.refl (s : State) : SameBuild s s := ⟨rfl, rfl⟩

/-- What happens at the port of the issuing context leaves them. -/
theorem EndsOrWaits.sameBuild {u t : State} {b8 : Byte} (h : EndsOrWaits u t b8) : SameBuild u t := by
  obtain ⟨q, rfl⟩ := h.setPort
  exact ⟨rfl, rfl⟩

theorem State.flush_sameBuild (s : State) : SameBuild s s.flush := by
  unfold State.flush
  split_ifs <;> exact ⟨rfl, rfl⟩

theorem State.writeAndFlush_sameBuild (s : State) (frame : List Byte) : SameBuild s (s.writeAndFlush frame) := by
  obtain ⟨push, q, h⟩ := s.writeAndFlush_eq frame
  rw [h]
  exact ⟨rfl, rfl⟩

theorem enqueueStep_sameBuild {rest : List Byte} {k : Nat} {s t : State} (h : enqueueStep rest k s = .ok t) :
    SameBuild s t := by
  obtain ⟨rb, drop, -, ⟨k', rfl⟩ | ⟨rest', k', -, rfl⟩⟩ := enqueueStep_frame h <;> exact ⟨rfl, rfl⟩

theorem enqueueAll_sameBuild {bytes : List Byte} {k : Nat} {s t : State} (h : enqueueAll bytes k s = .ok t) :
    SameBuild s t := by
  obtain ⟨rb, drop, k', -, rfl⟩ := enqueueAll_frame h
  exact ⟨rfl, rfl⟩

theorem queueTransfer_sameBuild {pass : Pass} {frames : List Frame} {s t : State}
    (h : queueTransfer pass (afterPass pass) frames s = .ok t) : SameBuild s t := by
  rcases queueTransfer_frame h with ⟨-, pp, push, he⟩ | ⟨-, rfl⟩
  · exact he.sameBuild
  · exact ⟨rfl, rfl⟩

theorem fillStep_sameBuild {pass : Pass} {frames : List Frame} {m : Nat} {s t : State}
    (h : fillStep pass (afterPass pass) frames m s = .ok t) : SameBuild s t := by
  obtain ⟨tail, tx, txLen, ⟨m', rfl⟩ | h⟩ := fillStep_frame h
  · exact ⟨rfl, rfl⟩
  · exact (queueTransfer_sameBuild h :)

theorem schedPass_sameBuild {pass : Pass} {s t : State} (h : schedPass pass (afterPass pass) s = .ok t) :
    SameBuild s t := by
  rcases schedPass_frame h with ⟨-, rfl⟩ | ⟨reason, -, rfl⟩ |
    ⟨-, pl, tip, frames, -, -, ⟨-, pp, push, he⟩ | ⟨-, tail, tx, txLen, ⟨-, m', rfl⟩ | h⟩⟩
  · exact ⟨rfl, rfl⟩
  · exact ⟨rfl, rfl⟩
  · exact he.sameBuild
  · exact ⟨rfl, rfl⟩
  · exact (queueTransfer_sameBuild h :)

theorem readPush_sameBuild {k used : Nat} {armed : Bool} {events : List RouterEvent} {s t : State}
    (h : readPush k used armed events s = .ok t) : SameBuild s t := by
  obtain ⟨r, -, ⟨left, -, rfl⟩ | ⟨-, rfl⟩⟩ := readPush_eq_ok.1 h <;> exact ⟨rfl, rfl⟩

theorem countPush_sameBuild {armed : Bool} {events : List RouterEvent} {s t : State}
    (h : countPush armed events s = .ok t) : SameBuild s t := by
  rcases countPush_eq_ok.1 h with ⟨-, h⟩ | ⟨-, rfl⟩
  · exact readPush_sameBuild h
  · exact ⟨rfl, rfl⟩

/-- The first atomic step of a command. -/
theorem exec_sameBuild {i : Instr} {s t : State} (h : exec i s = .next t) : SameBuild s t := by
  obtain ⟨-, ⟨-, rfl⟩ | ⟨-, hrun⟩⟩ := exec_frame h
  · exact ⟨rfl, rfl⟩
  rcases hrun with ⟨-, st, b8, h16, data, rfl⟩ | ⟨b, pushed, rb, -, -, rfl⟩ | ⟨popped, rb, st, b8, -, -, rfl⟩ |
    ⟨sel, b, P, done, -, -, rfl⟩ | ⟨-, rfl⟩ | ⟨id, payload, -, rfl⟩ | ⟨id, payload, -, -, hrun⟩ |
    ⟨id, payload, -, -, hrun⟩ | ⟨-, hrun⟩ | ⟨-, hrun⟩
  · exact ⟨rfl, rfl⟩
  · exact ⟨rfl, rfl⟩
  · exact ⟨rfl, rfl⟩
  · exact ⟨rfl, rfl⟩
  · exact ⟨rfl, rfl⟩
  · exact s.writeAndFlush_sameBuild _
  · exact enqueueStep_sameBuild hrun
  · exact enqueueAll_sameBuild hrun
  · exact schedPass_sameBuild hrun
  · exact schedPass_sameBuild hrun

/-- A later atomic step of a command. -/
theorem resume_sameBuild {s t : State} (h : resume s = .ok t) : SameBuild s t := by
  unfold resume at h
  cases hp : s.port.progress <;> rw [hp] at h
  case idle => exact Except.ok.inj h ▸ SameBuild.refl s
  case sending => exact enqueueStep_sameBuild h
  case filling => exact fillStep_sameBuild h
  case writing frame => exact Except.ok.inj h ▸ s.writeAndFlush_sameBuild frame
  case flushing => exact Except.ok.inj h ▸ s.flush_sameBuild
  case polling => exact schedPass_sameBuild h
  case queueing => exact queueTransfer_sameBuild h
  case counting => exact countPush_sameBuild h
  case reading => exact readPush_sameBuild h

/-- A turn: a reset leaves them too (70_reset R330). -/
theorem takeTurn_sameBuild {s t : State} (h : takeTurn s = .next t) : SameBuild s t := by
  rcases takeTurn_cases s with ⟨-, e⟩ | ⟨-, -, e | e⟩ | ⟨-, -, ⟨-, e⟩ | ⟨why, -, e⟩ | ⟨i, rest, -, e⟩⟩
  · exact resume_sameBuild (outcome_eq_next.1 (e.symm.trans h))
  · exact Host.Outcome.next.inj (e.symm.trans h) ▸ SameBuild.refl s
  · exact Host.Outcome.next.inj (e.symm.trans h) ▸ ⟨rfl, rfl⟩
  · exact Host.Outcome.next.inj (e.symm.trans h) ▸ SameBuild.refl s
  · exact Host.Outcome.next.inj (e.symm.trans h) ▸ ⟨rfl, rfl⟩
  · exact exec_sameBuild (s := s.setStream rest) (e.symm.trans h)

/-- An act of the outside. -/
theorem applyInput_sameBuild (s : State) (i : Input) : SameBuild s (s.applyInput i) := by
  cases i with
  | callReturns call returns => exact ⟨s.setCall_cfg call returns, s.setCall_twoContexts call returns⟩
  | masterClock bytes =>
    show SameBuild s (s.masterClock bytes)
    by_cases h : s.pull.inFlight = 0
    · rw [State.masterClock_of_none h]
      exact SameBuild.refl s
    · rw [State.masterClock_of_inFlight h bytes rfl rfl]
      exact ⟨rfl, rfl⟩
  | _ => exact ⟨rfl, rfl⟩

/-- Settles O14: a step is a turn or an act of the outside. -/
theorem parametersNeverChange : Obligations.ParametersNeverChange := by
  intro s t h
  rcases step_cases (paramsValid_of_step h) with ⟨-, e⟩ | ⟨x, rest, -, e⟩ | ⟨i, rest, -, -, e⟩
  · exact takeTurn_sameBuild (e.symm.trans h)
  · exact takeTurn_sameBuild (s := { s with turn := x, inputs := rest }) (e.symm.trans h)
  · exact Host.Outcome.next.inj (e.symm.trans h) ▸ applyInput_sameBuild { s with inputs := rest } i

end Sys2Proof.Machine
end

section
/-! PROOF. The fault flag and the reason (60_exceptions R306, R307): what raising a fault does, and that a recorded fault
and its reason stay until a reset. -/

namespace Sys2Proof.Machine

/-! ### Raising -/

/-- The first fault records its reason (60_exceptions R306). -/
theorem State.raise_of_none {s : State} (h : s.fault = false) (r : FaultReason) :
    s.raise r = { s with fault := true, faultReason := r.code }.respond .fault 0 0 [] := by
  simp [State.raise, h]

/-- A later fault is answered and records nothing (60_exceptions R306). -/
theorem State.raise_of_recorded {s : State} (h : s.fault = true) (r : FaultReason) :
    s.raise r = s.respond .fault 0 0 [] := by
  have hsame : { s with fault := true, faultReason := s.faultReason } = s := by rw [← h]
  simp only [State.raise, h, if_true]
  rw [hsame]

/-- Settles O58: the reason that `raise` records depends on the flag alone. -/
theorem raiseKeepsTheFirstReason : Obligations.RaiseKeepsTheFirstReason :=
  ⟨fun _ r => ⟨fun h => State.raise_of_none h r, fun h => State.raise_of_recorded h r⟩, rfl⟩

/-! ### A recorded fault

Every operation but `raise` leaves the two elements as they are, so for it the claim is `fun h => ⟨h, rfl⟩`. -/

/-- A fault recorded in `s` is recorded in `t`, with its reason (10_state R51, R52). -/
def KeepsFault (s t : State) : Prop := s.fault = true → t.fault = true ∧ t.faultReason = s.faultReason

theorem KeepsFault.refl (s : State) : KeepsFault s s := fun h => ⟨h, rfl⟩

/-- A further fault changes neither (60_exceptions R306). -/
theorem State.raise_keepsFault (s : State) (r : FaultReason) : KeepsFault s (s.raise r) :=
  fun h => ⟨rfl, (s.raise_faultReason r).trans (if_pos h)⟩

theorem EndsOrWaits.keepsFault {u t : State} {b8 : Byte} (h : EndsOrWaits u t b8) : KeepsFault u t := by
  obtain ⟨q, rfl⟩ := h.setPort
  exact fun h => ⟨h, rfl⟩

theorem State.flush_keepsFault (s : State) : KeepsFault s s.flush := by
  unfold State.flush
  split_ifs <;> exact fun h => ⟨h, rfl⟩

theorem State.writeAndFlush_keepsFault (s : State) (frame : List Byte) : KeepsFault s (s.writeAndFlush frame) := by
  obtain ⟨push, q, h⟩ := s.writeAndFlush_eq frame
  rw [h]
  exact fun h => ⟨h, rfl⟩

theorem enqueueStep_keepsFault {rest : List Byte} {k : Nat} {s t : State} (h : enqueueStep rest k s = .ok t) :
    KeepsFault s t := by
  obtain ⟨rb, drop, -, ⟨k', rfl⟩ | ⟨rest', k', -, rfl⟩⟩ := enqueueStep_frame h <;> exact fun h => ⟨h, rfl⟩

theorem enqueueAll_keepsFault {bytes : List Byte} {k : Nat} {s t : State} (h : enqueueAll bytes k s = .ok t) :
    KeepsFault s t := by
  obtain ⟨rb, drop, k', -, rfl⟩ := enqueueAll_frame h
  exact fun h => ⟨h, rfl⟩

theorem queueTransfer_keepsFault {pass : Pass} {frames : List Frame} {s t : State}
    (h : queueTransfer pass (afterPass pass) frames s = .ok t) : KeepsFault s t := by
  rcases queueTransfer_frame h with ⟨-, pp, push, he⟩ | ⟨-, rfl⟩
  · exact he.keepsFault
  · exact fun h => ⟨h, rfl⟩

theorem fillStep_keepsFault {pass : Pass} {frames : List Frame} {m : Nat} {s t : State}
    (h : fillStep pass (afterPass pass) frames m s = .ok t) : KeepsFault s t := by
  obtain ⟨tail, tx, txLen, ⟨m', rfl⟩ | h⟩ := fillStep_frame h
  · exact fun h => ⟨h, rfl⟩
  · exact (queueTransfer_keepsFault h :)

/-- A scheduling pass, the one operation that raises a fault of its own (44_pull_bus_scheduler R231). -/
theorem schedPass_keepsFault {pass : Pass} {s t : State} (h : schedPass pass (afterPass pass) s = .ok t) :
    KeepsFault s t := by
  rcases schedPass_frame h with ⟨-, rfl⟩ | ⟨reason, -, rfl⟩ |
    ⟨-, pl, tip, frames, -, -, ⟨-, pp, push, he⟩ | ⟨-, tail, tx, txLen, ⟨-, m', rfl⟩ | h⟩⟩
  · exact fun h => ⟨h, rfl⟩
  · exact State.raise_keepsFault { s with pull := s.pull.polled } reason
  · exact he.keepsFault
  · exact fun h => ⟨h, rfl⟩
  · exact (queueTransfer_keepsFault h :)

theorem readPush_keepsFault {k used : Nat} {armed : Bool} {events : List RouterEvent} {s t : State}
    (h : readPush k used armed events s = .ok t) : KeepsFault s t := by
  obtain ⟨r, -, ⟨left, -, rfl⟩ | ⟨-, rfl⟩⟩ := readPush_eq_ok.1 h <;> exact fun h => ⟨h, rfl⟩

theorem countPush_keepsFault {armed : Bool} {events : List RouterEvent} {s t : State}
    (h : countPush armed events s = .ok t) : KeepsFault s t := by
  rcases countPush_eq_ok.1 h with ⟨-, h⟩ | ⟨-, rfl⟩
  · exact readPush_keepsFault h
  · exact fun h => ⟨h, rfl⟩

/-- The first atomic step of a command, a command that its context may not issue included (60_exceptions R308). -/
theorem exec_keepsFault {i : Instr} {s t : State} (h : exec i s = .next t) : KeepsFault s t := by
  obtain ⟨-, ⟨-, rfl⟩ | ⟨-, hrun⟩⟩ := exec_frame h
  · exact s.raise_keepsFault _
  rcases hrun with ⟨-, st, b8, h16, data, rfl⟩ | ⟨b, pushed, rb, -, -, rfl⟩ | ⟨popped, rb, st, b8, -, -, rfl⟩ |
    ⟨sel, b, P, done, -, -, rfl⟩ | ⟨-, rfl⟩ | ⟨id, payload, -, rfl⟩ | ⟨id, payload, -, -, hrun⟩ |
    ⟨id, payload, -, -, hrun⟩ | ⟨-, hrun⟩ | ⟨-, hrun⟩
  · exact fun h => ⟨h, rfl⟩
  · exact fun h => ⟨h, rfl⟩
  · exact fun h => ⟨h, rfl⟩
  · exact fun h => ⟨h, rfl⟩
  · exact fun h => ⟨h, rfl⟩
  · exact s.writeAndFlush_keepsFault _
  · exact enqueueStep_keepsFault hrun
  · exact enqueueAll_keepsFault hrun
  · exact schedPass_keepsFault hrun
  · exact schedPass_keepsFault hrun

/-- A later atomic step of a command. -/
theorem resume_keepsFault {s t : State} (h : resume s = .ok t) : KeepsFault s t := by
  unfold resume at h
  cases hp : s.port.progress <;> rw [hp] at h
  case idle => exact Except.ok.inj h ▸ KeepsFault.refl s
  case sending => exact enqueueStep_keepsFault h
  case filling => exact fillStep_keepsFault h
  case writing frame => exact Except.ok.inj h ▸ s.writeAndFlush_keepsFault frame
  case flushing => exact Except.ok.inj h ▸ s.flush_keepsFault
  case polling => exact schedPass_keepsFault h
  case queueing => exact queueTransfer_keepsFault h
  case counting => exact countPush_keepsFault h
  case reading => exact readPush_keepsFault h

/-- A turn with no reset waiting (70_reset R330). -/
theorem takeTurn_keepsFault {s t : State} (hr : s.resetPending = false) (h : takeTurn s = .next t) :
    KeepsFault s t := by
  rcases takeTurn_cases s with ⟨-, e⟩ | ⟨-, hr', -⟩ | ⟨-, -, ⟨-, e⟩ | ⟨why, -, e⟩ | ⟨i, rest, -, e⟩⟩
  · exact resume_keepsFault (outcome_eq_next.1 (e.symm.trans h))
  · exact absurd (hr'.symm.trans hr) nofun
  · exact Host.Outcome.next.inj (e.symm.trans h) ▸ KeepsFault.refl s
  · exact Host.Outcome.next.inj (e.symm.trans h) ▸ fun hf => ⟨hf, rfl⟩
  · exact exec_keepsFault (s := s.setStream rest) (e.symm.trans h)

/-- An act of the outside changes no element of the block but `rx`. -/
theorem applyInput_keepsFault (s : State) (i : Input) : KeepsFault s (s.applyInput i) := by
  obtain ⟨-, -, -, -, -, -, -, -, hfault, hreason, -⟩ := applyInput_sameBlock s i
  exact fun h => ⟨hfault.trans h, hreason⟩

/-- Settles O13: a step is a turn or an act of the outside, and only a reset clears the flag. -/
theorem recordedFaultStays : Obligations.RecordedFaultStays := by
  refine ⟨fun i s t hf h => exec_keepsFault h hf, fun s t hf hr h => ?_⟩
  suffices hkeeps : KeepsFault s t from hkeeps hf
  rcases step_cases (paramsValid_of_step h) with ⟨-, e⟩ | ⟨x, rest, -, e⟩ | ⟨i, rest, -, -, e⟩
  · exact takeTurn_keepsFault hr (e.symm.trans h)
  · exact takeTurn_keepsFault (s := { s with turn := x, inputs := rest }) hr (e.symm.trans h)
  · exact Host.Outcome.next.inj (e.symm.trans h) ▸ applyInput_keepsFault { s with inputs := rest } i

end Sys2Proof.Machine
end

section
/-! PROOF. Transport calls that do not return (60_exceptions R304, R315): a command stands at such a call with what it did
before, its context's steps do nothing meanwhile, and it goes on once the call returns. -/

namespace Sys2Proof.Machine

/-- A turn that leaves the command in progress where it stands changes nothing. -/
theorem step_of_held {s u : State} {g : Progress} (hstep : step s = outcome (resume u))
    (hp : u.port.progress = g) (h : resume u = .ok (u.setProgress g)) : step s = .next u := by
  rw [hstep, h, State.setProgress_self hp]
  rfl

/-! ### The push transport -/

theorem State.writeAndFlush_of_write_held {s : State} (hw : s.push.writeReturns = false) (frame : List Byte) :
    s.writeAndFlush frame = s.setProgress (.writing frame) := if_neg (by simp [hw])

theorem State.flush_of_held {s : State} (hf : s.push.flushReturns = false) :
    s.flush = s.setProgress .flushing := if_neg (by simp [hf])

theorem State.flush_of_returns {s : State} (hf : s.push.flushReturns = true) :
    s.flush = s.finishFlush := if_pos hf

/-- The frame is written, and stands as pending in a flush that does not return (60_exceptions R313). -/
theorem State.writeAndFlush_of_flush_held {s : State} (hw : s.push.writeReturns = true)
    (hf : s.push.flushReturns = false) (frame : List Byte) : s.writeAndFlush frame =
      { s with push := { s.push with txPending := s.push.txPending ++ frame } }.setProgress .flushing :=
  (if_pos hw).trans (State.flush_of_held hf)

/-- A `PushReadByte` that does not return ends the push phase before its first byte (45_router R265). -/
theorem pushPhase_of_held {p : PushTransport} (h : p.readsLeft = some 0) (cfg : Params) (k : Nat) (P : Parser) :
    pushPhase cfg (k + 1) P p = .ok
      { parser := P, transport := p, used := 0, events := [], found := false, stuck := some (k + 1) } := by
  have hread : p.readByte = .hangs := if_pos h
  unfold pushPhase
  rw [hread]

/-- The command then stands in that call with the bytes and events it had. -/
theorem readPush_of_held {s : State} (h : s.push.readsLeft = some 0) {k : Nat} (hk : 0 < k) (used : Nat)
    (armed : Bool) (events : List RouterEvent) :
    readPush k used armed events s = .ok (s.setProgress (.reading k used armed events)) := by
  obtain ⟨n, rfl⟩ : ∃ n, k = n + 1 := ⟨k - 1, by omega⟩
  refine readPush_eq_ok.2 ⟨_, pushPhase_of_held h s.cfg n s.pp, .inl ⟨n + 1, rfl, ?_⟩⟩
  rw [List.append_nil]
  rfl

theorem resume_of_writing {s : State} {frame : List Byte} (h : s.port.progress = .writing frame) :
    resume s = .ok (s.writeAndFlush frame) := by
  unfold resume
  rw [h]

theorem resume_of_flushing {s : State} (h : s.port.progress = .flushing) : resume s = .ok s.flush := by
  unfold resume
  rw [h]

theorem resume_of_counting {s : State} {armed : Bool} {events : List RouterEvent}
    (h : s.port.progress = .counting armed events) : resume s = countPush armed events s := by
  unfold resume
  rw [h]

theorem resume_of_reading {s : State} {k used : Nat} {armed : Bool} {events : List RouterEvent}
    (h : s.port.progress = .reading k used armed events) : resume s = readPush k used armed events s := by
  unfold resume
  rw [h]

/-- Settles O38: the first step is SEND_PUSH's write and flush; a later one is the call in which the command stands. -/
theorem pushCallThatDoesNotReturnHoldsItsCommand : Obligations.PushCallThatDoesNotReturnHoldsItsCommand := by
  refine ⟨fun s id payload hs hpos hmax => ?_, fun s u hv hu => ?_⟩
  · rw [exec_sendPush_of_accepted hs (sendAccepted_iff.2 ⟨hpos, hmax⟩)]
    exact ⟨fun hw => congrArg _ (State.writeAndFlush_of_write_held hw _),
      fun hw hf => congrArg _ (State.writeAndFlush_of_flush_held hw hf _)⟩
  have hstep {g : Progress} (hp : u.port.progress = g) (hg : g ≠ .idle) : step s = outcome (resume u) :=
    step_of_progress hv hu (hp ▸ hg)
  refine ⟨fun frame hp => ?writing, fun hp => ?flushing, fun armed events hp => ?counting,
    fun k used armed events hp => ?reading⟩
  case writing =>
    have hstep := hstep hp nofun
    have hrun := resume_of_writing hp
    refine ⟨fun hw => step_of_held hstep hp ?_, fun hw hf => ?_, fun hw hf => ?_⟩
    · rw [hrun, State.writeAndFlush_of_write_held hw]
    · rw [hstep, hrun, State.writeAndFlush_of_flush_held hw hf]
      rfl
    · rw [hstep, hrun, State.writeAndFlush_of_returns hw hf]
      rfl
  case flushing =>
    have hstep := hstep hp nofun
    have hrun := resume_of_flushing hp
    refine ⟨fun hf => step_of_held hstep hp ?_, fun hf => ?_⟩
    · rw [hrun, State.flush_of_held hf]
    · rw [hstep, hrun, State.flush_of_returns hf]
      rfl
  case counting =>
    have hstep := hstep hp nofun
    have hrun := resume_of_counting hp
    refine ⟨fun ha => step_of_held hstep hp ?_, fun ha hpp => ?_⟩
    · rw [hrun]
      exact countPush_eq_ok.2 (.inr ⟨ha, rfl⟩)
    · obtain ⟨t, ht, hanswers⟩ := readPush_answers hpp u.push.available 0 armed events
      exact ⟨t, by rw [hstep, hrun, countPush_eq_ok.2 (.inl ⟨ha, ht⟩)]; rfl, hanswers⟩
  case reading =>
    have hstep := hstep hp nofun
    have hrun := resume_of_reading hp
    refine ⟨fun hleft hk => step_of_held hstep hp ?_, fun hpp => ?_⟩
    · rw [hrun, readPush_of_held hleft hk]
    · obtain ⟨t, ht, hanswers⟩ := readPush_answers hpp k used armed events
      exact ⟨t, by rw [hstep, hrun, ht]; rfl, hanswers⟩

/-! ### The pull transport -/

theorem schedPass_of_held {s : State} (h : s.pull.pollReturns = false) (pass : Pass) (finish : AfterPass) :
    schedPass pass finish s = .ok (s.setProgress (.polling pass)) :=
  schedPass_eq_ok.2 (.inr ⟨h, rfl⟩)

theorem resume_of_polling {s : State} {pass : Pass} (h : s.port.progress = .polling pass) :
    resume s = schedPass pass (afterPass pass) s := by
  unfold resume
  rw [h]

theorem resume_of_queueing {s : State} {pass : Pass} {frames : List Frame}
    (h : s.port.progress = .queueing pass frames) : resume s = queueTransfer pass (afterPass pass) frames s := by
  unfold resume
  rw [h]

/-- A pass of one context whose `PullQueue` does not return has drained, popped and padded, and stands in that call
(44_pull_bus_scheduler R230, R237). -/
theorem State.BlockGood.schedPass_of_queue_held {s : State} (hg : s.BlockGood) (h1 : s.twoContexts = false)
    (hpoll : s.pull.pollReturns = true) (hqueue : s.pull.queueReturns = false) (hs : s.completionSound)
    (h0 : s.pull.inFlight = 0) (hlost : s.pull.completed = 0 → s.tip = false) :
    ∃ u frames, ArmedFrom s u frames ∧ ∀ pass finish, schedPass pass finish s = .ok
      ({ u with tip := false, pull := { s.pull with completed := 0 } }.setProgress (.queueing pass frames)) := by
  obtain ⟨P, frames, hfeed, hd, hdrain⟩ := hg.drain hs
  refine ⟨(s.drained P).armed, frames, hg.armedFrom hd hfeed h0, fun pass finish => ?_⟩
  rw [schedPass_of_sound hpoll hs h0 hlost hdrain, hd.fillAndArm_of_one h1]
  refine (queueTransfer_of_held (s := ((s.drained P).takeIn 0 _).padded _) hqueue).trans (congrArg Except.ok ?_)
  rw [drained_of_not_lost hlost P]
  rfl

/-- Settles O39: a pass stands in `PullPoll` before it has begun, so its step is the command again; in `PullQueue` its
step is the queueing and what follows it. -/
theorem pullCallThatDoesNotReturnHoldsItsCommand : Obligations.PullCallThatDoesNotReturnHoldsItsCommand := by
  refine ⟨fun s pass hs hheld => ?_, fun s u pass hu hp hs => ?_,
    fun s pass hg h1 hs h0 hlost hpoll hqueue => ?_, fun s u pass frames hg hu hp => ?_⟩
  · rw [exec_passCommand_of_accepts hs, schedPass_of_held hheld]
    rfl
  · have hv : paramsValid s.cfg = true := cfg_of_turnedTo hu ▸ hs.1
    have hstep := step_of_progress hv hu (by simp [hp])
    have hrun := resume_of_polling hp
    refine ⟨fun hheld => step_of_held hstep hp ?_, ?_⟩
    · rw [hrun, schedPass_of_held hheld]
    · rw [hstep, hrun, exec_passCommand_of_accepts hs]
  · obtain ⟨u, frames, harmed, hpass⟩ := hg.blockGood.schedPass_of_queue_held h1 hpoll hqueue hs h0 hlost
    have hport : u.port = s.port := by
      rw [harmed.rest]
      rfl
    refine ⟨u, frames, harmed, ?_⟩
    rw [exec_passCommand_of_accepts ⟨hg.cfg, admits_of_one h1 _⟩, hpass, ← hport]
    rfl
  · have hug : u.Good := hg.of_turnedTo hu
    have hstep := step_of_progress hg.cfg hu (by simp [hp])
    have hrun := resume_of_queueing hp
    refine ⟨fun hheld => step_of_held hstep hp ?_, fun hret => ?_⟩
    · rw [hrun, queueTransfer_of_held hheld]
    · obtain ⟨-, -, hfits⟩ := hug.of_queueing hp
      obtain ⟨t, ht, hanswers⟩ := queueTransfer_answers hug.pp hfits hret pass frames
      exact ⟨t, by rw [hstep, hrun, ht]; rfl, hanswers⟩

end Sys2Proof.Machine
end

section
/-! PROOF. A waiting reset is taken between commands, at the turn of a context that has none in progress
(70_reset R330, 10_state R55). -/

namespace Sys2Proof.Machine

theorem Port.isIdle_eq_false_iff {q : Port} : q.isIdle = false ↔ q.progress ≠ .idle := by
  rw [← Bool.not_eq_true, Port.isIdle_iff]

/-- With a reset waiting, a context that has no command in progress asks whether either context has one. -/
theorem nextAction_of_resetPending {u : State} (hp : u.port.progress = .idle) (hr : u.resetPending = true) :
    nextAction u = if u.portP.isIdle && u.portC.isIdle then .reset else .wait := by
  unfold nextAction
  rw [if_neg (by simp [Port.isIdle_iff.2 hp]), if_pos hr]

/-- The reset is taken where neither context has a command in progress. -/
theorem takeTurn_of_reset_taken {u : State} (h : u.port.progress = .idle) (hr : u.resetPending = true)
    (hp : u.portP.progress = .idle) (hc : u.portC.progress = .idle) : takeTurn u = .next u.blockReset := by
  unfold takeTurn
  rw [nextAction_of_resetPending h hr, Port.isIdle_iff.2 hp, Port.isIdle_iff.2 hc]
  rfl

/-- The reset goes on waiting while a command of either context is in progress. -/
theorem takeTurn_of_reset_waits {u : State} (h : u.port.progress = .idle) (hr : u.resetPending = true)
    (hbusy : u.portP.progress ≠ .idle ∨ u.portC.progress ≠ .idle) : takeTurn u = .next u := by
  have hno : (u.portP.isIdle && u.portC.isIdle) = false := by
    rwa [Bool.and_eq_false_iff, Port.isIdle_eq_false_iff, Port.isIdle_eq_false_iff]
  unfold takeTurn
  rw [nextAction_of_resetPending h hr, hno]
  rfl

/-- Having the turn changes neither the transports, nor the ports, nor how many contexts there are. -/
theorem outside_of_turnedTo {s u : State} (h : s.turnedTo u) :
    u.push = s.push ∧ u.pull = s.pull ∧ u.portP = s.portP ∧ u.portC = s.portC ∧ u.twoContexts = s.twoContexts := by
  rcases h with ⟨-, rfl⟩ | ⟨x, later, -, rfl⟩ <;> exact ⟨rfl, rfl, rfl, rfl, rfl⟩

/-- Settles O9: the step is the context's turn, and whether the turn takes the reset is whether neither port has a
command in progress. -/
theorem resetIsTakenBetweenCommands : Obligations.ResetIsTakenBetweenCommands := by
  intro s u hv hu hr h
  rw [step_of_turnedTo hv hu]
  refine ⟨fun hp hc => ?taken, takeTurn_of_reset_waits h hr⟩
  case taken =>
    have hcfg := cfg_of_turnedTo hu
    obtain ⟨hpush, hpull, hportP, hportC, htwo⟩ := outside_of_turnedTo hu
    exact ⟨u.blockReset, takeTurn_of_reset_taken h hr hp hc, rfl, rfl, rfl, rfl, rfl, rfl, rfl, rfl, rfl, rfl, rfl, rfl,
      hcfg, hpush, hpull, hportP, hportC, htwo, rfl⟩

end Sys2Proof.Machine
end
